-- ==== Sys2Proof/Word.lean ====
section
/-! DEFINITION. The value types of the machine (00_scope.md R4, R7): every value is unsigned. -/

namespace Sys2Proof

/-- A general register, a timer, a memory byte: 8 bits (00_scope.md R4, `XLEN`). -/
abbrev Byte := BitVec 8

/-- The index register, the program counter, a stack entry, an instruction word: 16 bits
(00_scope.md R4, `ILEN`, `PCLEN`, `INSTR_LEN`). -/
abbrev Word := BitVec 16

/-- Four bits of an instruction word (00_scope.md R7). -/
abbrev Nibble := BitVec 4

/-- The 12-bit address field `NNN` (30_encoding.md R81). -/
abbrev Addr12 := BitVec 12

/-- The number of a general register, 0 to 15 (10_state.md R20). -/
abbrev Reg := Fin 16

/-- The number of a virtual key, 0 to 15 (10_state.md R26). -/
abbrev Key := Fin 16

/-- The register that doubles as the flag: `V[15]`, written VF (10_state.md R21). -/
abbrev VF : Reg := 15

end Sys2Proof
end

