-- ==== Sys2Proof/Syntax.lean ====
section
/-! DEFINITION. The 34 instructions, one constructor per row of spec/opcode_table.json, in the order of
30_encoding.md R85. A field the decoder ignores (R87) is not an operand and is not kept. -/

namespace Sys2Proof

/-- An instruction (30_encoding.md R85). `x` and `y` are the fields `X`, `Y`; `nn` is `NN`; `nnn` is `NNN`. -/
inductive Instr where
  /-- `00E0` clear-screen (43_display.md R180) -/
  | clearScreen
  /-- `00EE` return (40_control.md R111) -/
  | ret
  /-- `1NNN` jump (40_control.md R112) -/
  | jump (nnn : Addr12)
  /-- `2NNN` call (40_control.md R113) -/
  | call (nnn : Addr12)
  /-- `3XNN` skip-eq-imm (40_control.md R114) -/
  | skipEqImm (x : Reg) (nn : Byte)
  /-- `4XNN` skip-neq-imm (40_control.md R115) -/
  | skipNeqImm (x : Reg) (nn : Byte)
  /-- `5XY-` skip-eq-reg (40_control.md R116) -/
  | skipEqReg (x y : Reg)
  /-- `6XNN` load-imm (41_alu.md R132) -/
  | loadImm (x : Reg) (nn : Byte)
  /-- `7XNN` add-imm (41_alu.md R133) -/
  | addImm (x : Reg) (nn : Byte)
  /-- `8XY0` set (41_alu.md R134) -/
  | setReg (x y : Reg)
  /-- `8XY1` OR (41_alu.md R135) -/
  | orReg (x y : Reg)
  /-- `8XY2` AND (41_alu.md R136) -/
  | andReg (x y : Reg)
  /-- `8XY3` XOR (41_alu.md R137) -/
  | xorReg (x y : Reg)
  /-- `8XY4` ADD (41_alu.md R138) -/
  | addReg (x y : Reg)
  /-- `8XY5` SUB (41_alu.md R139) -/
  | subReg (x y : Reg)
  /-- `8X-6` SHR (41_alu.md R140) -/
  | shr (x : Reg)
  /-- `8XY7` SUBN (41_alu.md R141) -/
  | subnReg (x y : Reg)
  /-- `8X-E` SHL (41_alu.md R142) -/
  | shl (x : Reg)
  /-- `9XY-` skip-neq-reg (40_control.md R117) -/
  | skipNeqReg (x y : Reg)
  /-- `ANNN` set-index (42_index_memory.md R160) -/
  | setIndex (nnn : Addr12)
  /-- `BNNN` jump-offset (40_control.md R118) -/
  | jumpOffset (nnn : Addr12)
  /-- `CXNN` random (41_alu.md R143) -/
  | random (x : Reg) (nn : Byte)
  /-- `DXYN` draw (43_display.md R183); `n` is the number of sprite rows, 0 to 15 -/
  | draw (x y : Reg) (n : Nat)
  /-- `EX9E` skip-if-key (44_keys_timers.md R200) -/
  | skipIfKey (x : Reg)
  /-- `EXA1` skip-if-not-key (44_keys_timers.md R201) -/
  | skipIfNotKey (x : Reg)
  /-- `FX07` get-delay (44_keys_timers.md R203) -/
  | getDelay (x : Reg)
  /-- `FX0A` wait-for-key (44_keys_timers.md R202) -/
  | waitForKey (x : Reg)
  /-- `FX15` set-delay (44_keys_timers.md R204) -/
  | setDelay (x : Reg)
  /-- `FX18` set-sound (44_keys_timers.md R205) -/
  | setSound (x : Reg)
  /-- `FX1E` add-index (42_index_memory.md R161) -/
  | addIndex (x : Reg)
  /-- `FX29` font-char (42_index_memory.md R162) -/
  | fontChar (x : Reg)
  /-- `FX33` bcd-store (42_index_memory.md R163) -/
  | bcdStore (x : Reg)
  /-- `FX55` reg-dump (42_index_memory.md R164) -/
  | regDump (x : Reg)
  /-- `FX65` reg-load (42_index_memory.md R165) -/
  | regLoad (x : Reg)
  deriving DecidableEq, Repr

end Sys2Proof
end

