-- ==== Sys2Proof/WellFormed.lean ====
section
/-! DEFINITION. Which instruction terms stand for an instruction of the machine. A register number, an
immediate and an address carry their width in their type (30_encoding.md R81); the one operand that is
a count, the `N` of draw, is checked here. -/

namespace Sys2Proof

/-- `N` of draw is a 4-bit field: a row count 0 to 15 (30_encoding.md R83). -/
def rowCountFits (n : Nat) : Bool := n ≤ 15

/-- The instruction is one that an instruction word can hold. -/
def Instr.wellFormed : Instr → Bool
  | .draw _ _ n => rowCountFits n
  | .clearScreen | .ret | .jump _ | .call _ | .skipEqImm _ _ | .skipNeqImm _ _ | .skipEqReg _ _
  | .loadImm _ _ | .addImm _ _ | .setReg _ _ | .orReg _ _ | .andReg _ _ | .xorReg _ _ | .addReg _ _
  | .subReg _ _ | .shr _ | .subnReg _ _ | .shl _ | .skipNeqReg _ _ | .setIndex _ | .jumpOffset _
  | .random _ _ | .skipIfKey _ | .skipIfNotKey _ | .getDelay _ | .waitForKey _ | .setDelay _
  | .setSound _ | .addIndex _ | .fontChar _ | .bcdStore _ | .regDump _ | .regLoad _ => true

/-- `Instr.wellFormed` as a statement. -/
abbrev Instr.WellFormed (i : Instr) : Prop := i.wellFormed = true

end Sys2Proof
end

