-- ==== Sys2Proof/Decode.lean ====
section
/-! DEFINITION. The decoder, total on any bytes, and the encoder, both from 30_encoding.md R81 to R87,
and the opcode map R85 as a table. The numbers the source does not confirm are listed in R92
(UNVERIFIED, log 10). -/

namespace Sys2Proof

/-! ### Fields (30_encoding.md R81) -/

/-- `IR[15:12]`, the opcode class. -/
def classOf (w : Word) : Nibble := w.extractLsb' 12 4
/-- `X` = `IR[11:8]`, a register number. -/
def fieldX (w : Word) : Reg := (w.extractLsb' 8 4).toFin
/-- `Y` = `IR[7:4]`, a register number. -/
def fieldY (w : Word) : Reg := (w.extractLsb' 4 4).toFin
/-- `N` = `IR[3:0]`. -/
def fieldN (w : Word) : Nibble := w.extractLsb' 0 4
/-- `NN` = `IR[7:0]`. -/
def fieldNN (w : Word) : Byte := w.extractLsb' 0 8
/-- `NNN` = `IR[11:0]`. -/
def fieldNNN (w : Word) : Addr12 := w.extractLsb' 0 12

/-! ### Decoding -/

/-- Why the decoder gives no instruction. -/
inductive Reject where
  /-- A word that matches no row of 30_encoding.md R85: an unrecognized opcode (R86). The machine goes on. -/
  | unrecognized (w : Word)
  /-- Fewer than two bytes: no instruction word (every instruction is 2 bytes, R88). -/
  | truncated
  deriving DecidableEq, Repr

/-- Class 8 selects on `N` (30_encoding.md R84). -/
def decodeClass8 (w : Word) : Except Reject Instr :=
  match fieldN w with
  | 0x0#4 => .ok (.setReg (fieldX w) (fieldY w))
  | 0x1#4 => .ok (.orReg (fieldX w) (fieldY w))
  | 0x2#4 => .ok (.andReg (fieldX w) (fieldY w))
  | 0x3#4 => .ok (.xorReg (fieldX w) (fieldY w))
  | 0x4#4 => .ok (.addReg (fieldX w) (fieldY w))
  | 0x5#4 => .ok (.subReg (fieldX w) (fieldY w))
  | 0x6#4 => .ok (.shr (fieldX w))
  | 0x7#4 => .ok (.subnReg (fieldX w) (fieldY w))
  | 0xE#4 => .ok (.shl (fieldX w))
  | _ => .error (.unrecognized w)

/-- Class E selects on `NN` (30_encoding.md R84). -/
def decodeClassE (w : Word) : Except Reject Instr :=
  match fieldNN w with
  | 0x9E#8 => .ok (.skipIfKey (fieldX w))
  | 0xA1#8 => .ok (.skipIfNotKey (fieldX w))
  | _ => .error (.unrecognized w)

/-- Class F selects on `NN` (30_encoding.md R84). -/
def decodeClassF (w : Word) : Except Reject Instr :=
  match fieldNN w with
  | 0x07#8 => .ok (.getDelay (fieldX w))
  | 0x0A#8 => .ok (.waitForKey (fieldX w))
  | 0x15#8 => .ok (.setDelay (fieldX w))
  | 0x18#8 => .ok (.setSound (fieldX w))
  | 0x1E#8 => .ok (.addIndex (fieldX w))
  | 0x29#8 => .ok (.fontChar (fieldX w))
  | 0x33#8 => .ok (.bcdStore (fieldX w))
  | 0x55#8 => .ok (.regDump (fieldX w))
  | 0x65#8 => .ok (.regLoad (fieldX w))
  | _ => .error (.unrecognized w)

/-- Class 0 selects on the whole word (30_encoding.md R84). -/
def decodeClass0 (w : Word) : Except Reject Instr :=
  match w with
  | 0x00E0#16 => .ok .clearScreen
  | 0x00EE#16 => .ok .ret
  | _ => .error (.unrecognized w)

/-- The decoder of 30_encoding.md R84: first the class, then, in classes 0, 8, E and F, a sub-opcode. -/
def decodeWord (w : Word) : Except Reject Instr :=
  match classOf w with
  | 0x0#4 => decodeClass0 w
  | 0x1#4 => .ok (.jump (fieldNNN w))
  | 0x2#4 => .ok (.call (fieldNNN w))
  | 0x3#4 => .ok (.skipEqImm (fieldX w) (fieldNN w))
  | 0x4#4 => .ok (.skipNeqImm (fieldX w) (fieldNN w))
  | 0x5#4 => .ok (.skipEqReg (fieldX w) (fieldY w))
  | 0x6#4 => .ok (.loadImm (fieldX w) (fieldNN w))
  | 0x7#4 => .ok (.addImm (fieldX w) (fieldNN w))
  | 0x8#4 => decodeClass8 w
  | 0x9#4 => .ok (.skipNeqReg (fieldX w) (fieldY w))
  | 0xA#4 => .ok (.setIndex (fieldNNN w))
  | 0xB#4 => .ok (.jumpOffset (fieldNNN w))
  | 0xC#4 => .ok (.random (fieldX w) (fieldNN w))
  | 0xD#4 => .ok (.draw (fieldX w) (fieldY w) (fieldN w).toNat)
  | 0xE#4 => decodeClassE w
  | _ => decodeClassF w      -- only 0xF is left of the 16 values of a nibble

/-- Big-endian: the byte at the lower address is `IR[15:8]` (20_memory.md R56). -/
def wordOfBytes (hi lo : Byte) : Word := hi ++ lo

/-- The decoder on bytes: one instruction from the first two, and the rest. -/
def decode : List Byte → Except Reject (Instr × List Byte)
  | hi :: lo :: rest =>
    match decodeWord (wordOfBytes hi lo) with
    | .ok i => .ok (i, rest)
    | .error r => .error r
  | [_] => .error .truncated
  | [] => .error .truncated

/-! ### Encoding -/

/-- The register field that holds a register number. -/
def regField (x : Reg) : Nibble := BitVec.ofFin x

/-- Format OPR: class, `X`, `Y`, `N` (30_encoding.md R82). -/
def wordOPR (c : Nibble) (x y : Reg) (n : Nibble) : Word := (c ++ regField x) ++ (regField y ++ n)
/-- Format OPI: class, `X`, `NN` (30_encoding.md R82). -/
def wordOPI (c : Nibble) (x : Reg) (nn : Byte) : Word := (c ++ regField x) ++ nn
/-- Format OPA: class, `NNN` (30_encoding.md R82). -/
def wordOPA (c : Nibble) (nnn : Addr12) : Word := c ++ nnn

/-- The canonical word of an instruction: ignored fields are 0 (30_encoding.md R85, R87, R89). -/
def encodeWord : Instr → Word
  | .clearScreen => 0x00E0
  | .ret => 0x00EE
  | .jump nnn => wordOPA 0x1 nnn
  | .call nnn => wordOPA 0x2 nnn
  | .skipEqImm x nn => wordOPI 0x3 x nn
  | .skipNeqImm x nn => wordOPI 0x4 x nn
  | .skipEqReg x y => wordOPR 0x5 x y 0x0
  | .loadImm x nn => wordOPI 0x6 x nn
  | .addImm x nn => wordOPI 0x7 x nn
  | .setReg x y => wordOPR 0x8 x y 0x0
  | .orReg x y => wordOPR 0x8 x y 0x1
  | .andReg x y => wordOPR 0x8 x y 0x2
  | .xorReg x y => wordOPR 0x8 x y 0x3
  | .addReg x y => wordOPR 0x8 x y 0x4
  | .subReg x y => wordOPR 0x8 x y 0x5
  | .shr x => wordOPR 0x8 x 0 0x6
  | .subnReg x y => wordOPR 0x8 x y 0x7
  | .shl x => wordOPR 0x8 x 0 0xE
  | .skipNeqReg x y => wordOPR 0x9 x y 0x0
  | .setIndex nnn => wordOPA 0xA nnn
  | .jumpOffset nnn => wordOPA 0xB nnn
  | .random x nn => wordOPI 0xC x nn
  | .draw x y n => wordOPR 0xD x y (BitVec.ofNat 4 n)
  | .skipIfKey x => wordOPI 0xE x 0x9E
  | .skipIfNotKey x => wordOPI 0xE x 0xA1
  | .getDelay x => wordOPI 0xF x 0x07
  | .waitForKey x => wordOPI 0xF x 0x0A
  | .setDelay x => wordOPI 0xF x 0x15
  | .setSound x => wordOPI 0xF x 0x18
  | .addIndex x => wordOPI 0xF x 0x1E
  | .fontChar x => wordOPI 0xF x 0x29
  | .bcdStore x => wordOPI 0xF x 0x33
  | .regDump x => wordOPI 0xF x 0x55
  | .regLoad x => wordOPI 0xF x 0x65

/-- A word as the two bytes in memory, high byte at the lower address (20_memory.md R56). -/
def bytesOfWord (w : Word) : List Byte := [w.extractLsb' 8 8, w.extractLsb' 0 8]

/-- The bytes of an instruction. -/
def encode (i : Instr) : List Byte := bytesOfWord (encodeWord i)

/-! ### The opcode map as a table (30_encoding.md R85) -/

/-- One row of R85: a word `w` is this instruction exactly when `w and mask = pattern`. -/
structure OpRow where
  mnemonic : String
  pattern : Word
  mask : Word
  deriving DecidableEq, Repr

/-- Does the word match the row? -/
def OpRow.accepts (r : OpRow) (w : Word) : Bool := w &&& r.mask == r.pattern

/-- The row of R85 an instruction belongs to. -/
def rowOf : Instr → OpRow
  | .clearScreen => ⟨"clear-screen", 0x00E0, 0xFFFF⟩
  | .ret => ⟨"return", 0x00EE, 0xFFFF⟩
  | .jump _ => ⟨"jump", 0x1000, 0xF000⟩
  | .call _ => ⟨"call", 0x2000, 0xF000⟩
  | .skipEqImm _ _ => ⟨"skip-eq-imm", 0x3000, 0xF000⟩
  | .skipNeqImm _ _ => ⟨"skip-neq-imm", 0x4000, 0xF000⟩
  | .skipEqReg _ _ => ⟨"skip-eq-reg", 0x5000, 0xF000⟩
  | .loadImm _ _ => ⟨"load-imm", 0x6000, 0xF000⟩
  | .addImm _ _ => ⟨"add-imm", 0x7000, 0xF000⟩
  | .setReg _ _ => ⟨"set", 0x8000, 0xF00F⟩
  | .orReg _ _ => ⟨"OR", 0x8001, 0xF00F⟩
  | .andReg _ _ => ⟨"AND", 0x8002, 0xF00F⟩
  | .xorReg _ _ => ⟨"XOR", 0x8003, 0xF00F⟩
  | .addReg _ _ => ⟨"ADD", 0x8004, 0xF00F⟩
  | .subReg _ _ => ⟨"SUB", 0x8005, 0xF00F⟩
  | .shr _ => ⟨"SHR", 0x8006, 0xF00F⟩
  | .subnReg _ _ => ⟨"SUBN", 0x8007, 0xF00F⟩
  | .shl _ => ⟨"SHL", 0x800E, 0xF00F⟩
  | .skipNeqReg _ _ => ⟨"skip-neq-reg", 0x9000, 0xF000⟩
  | .setIndex _ => ⟨"set-index", 0xA000, 0xF000⟩
  | .jumpOffset _ => ⟨"jump-offset", 0xB000, 0xF000⟩
  | .random _ _ => ⟨"random", 0xC000, 0xF000⟩
  | .draw _ _ _ => ⟨"draw", 0xD000, 0xF000⟩
  | .skipIfKey _ => ⟨"skip-if-key", 0xE09E, 0xF0FF⟩
  | .skipIfNotKey _ => ⟨"skip-if-not-key", 0xE0A1, 0xF0FF⟩
  | .getDelay _ => ⟨"get-delay", 0xF007, 0xF0FF⟩
  | .waitForKey _ => ⟨"wait-for-key", 0xF00A, 0xF0FF⟩
  | .setDelay _ => ⟨"set-delay", 0xF015, 0xF0FF⟩
  | .setSound _ => ⟨"set-sound", 0xF018, 0xF0FF⟩
  | .addIndex _ => ⟨"add-index", 0xF01E, 0xF0FF⟩
  | .fontChar _ => ⟨"font-char", 0xF029, 0xF0FF⟩
  | .bcdStore _ => ⟨"bcd-store", 0xF033, 0xF0FF⟩
  | .regDump _ => ⟨"reg-dump", 0xF055, 0xF0FF⟩
  | .regLoad _ => ⟨"reg-load", 0xF065, 0xF0FF⟩

/-- One instruction of each row, in the order of R85. -/
def oneOfEachRow : List Instr :=
  [.clearScreen, .ret, .jump 0, .call 0, .skipEqImm 0 0, .skipNeqImm 0 0, .skipEqReg 0 0, .loadImm 0 0,
   .addImm 0 0, .setReg 0 0, .orReg 0 0, .andReg 0 0, .xorReg 0 0, .addReg 0 0, .subReg 0 0, .shr 0] ++
  [.subnReg 0 0, .shl 0, .skipNeqReg 0 0, .setIndex 0, .jumpOffset 0, .random 0 0, .draw 0 0 0,
   .skipIfKey 0, .skipIfNotKey 0, .getDelay 0, .waitForKey 0, .setDelay 0, .setSound 0, .addIndex 0,
   .fontChar 0, .bcdStore 0, .regDump 0, .regLoad 0]

/-- The 34 rows of R85. -/
def opcodeMap : List OpRow := oneOfEachRow.map rowOf

/-! ### The host's question -/

/-- The instruction the decoder reads from `nbits` bits `w` numbered as spec/opcode_table.json numbers
them: the one 16-bit word, laid out big-endian. -/
def decodeTableWord (nbits w : Nat) : Option Instr :=
  match decode (bytesOfWord (BitVec.ofNat 16 (w % 2 ^ nbits))) with
  | .ok (i, _) => some i
  | .error _ => none

end Sys2Proof
end

