-- ==== Sys2Proof/Config.lean ====
section
/-! DEFINITION. The constants and parameters of the machine (00_scope.md R4) and the one free value:
the byte on the random input. -/

namespace Sys2Proof.Config

/-- `MEM_SIZE`: addresses 0 to 4095 (00_scope.md R4). -/
abbrev memSize : Nat := 4096

/-- `PROG_BASE`: where `Load` puts the program and where `PC` starts (00_scope.md R4). -/
abbrev progBase : Nat := 0x200

/-- `MAX_PROG_LEN` = `MEM_SIZE - PROG_BASE` (00_scope.md R4). -/
abbrev maxProgLen : Nat := 3584

/-- `FONT_GLYPHS` glyphs of `FONT_GLYPH_BYTES` bytes (00_scope.md R4). -/
abbrev fontBytes : Nat := 80

/-- The byte on the 8-bit input `rnd` when the core samples it for the `n`-th time. A FREE VALUE: the
spec places no law on it (10_state.md R31, 41_alu.md R143), so it has no body (log 3). -/
opaque rndInput : Nat → Byte

/-- The parameters the spec leaves to the model's user (92_eei_decisions.md, "Open parameters in one
place"): fixed for the life of a machine, not registers (10_state.md R35). -/
structure Params where
  /-- `FONT_BASE` (92 D8). -/
  fontBase : Nat
  /-- `FONT_DATA`, 80 bytes (92 D9). -/
  fontData : List Byte
  /-- `STACK_DEPTH` (92 D5). -/
  stackDepth : Nat
  /-- `MEM_FILL`: the byte of every memory cell that nothing has written (92 D10). -/
  memFill : Byte
  deriving DecidableEq, Repr

/-- The legal values of the parameters (00_scope.md R4; 92_eei_decisions.md, last table). -/
abbrev Params.Legal (p : Params) : Prop :=
  p.fontBase + fontBytes ≤ progBase ∧ p.fontData.length = fontBytes ∧ 1 ≤ p.stackDepth

/-- The 80 bytes of 20_memory.md R53: 16 glyphs of 5 rows, top row first, digits 0 to F in order
(UNVERIFIED: the spec marks them as general knowledge, log 9). -/
def defaultFont : List Byte :=
  [0xF0, 0x90, 0x90, 0x90, 0xF0] ++ [0x20, 0x60, 0x20, 0x20, 0x70] ++
  [0xF0, 0x10, 0xF0, 0x80, 0xF0] ++ [0xF0, 0x10, 0xF0, 0x10, 0xF0] ++
  [0x90, 0x90, 0xF0, 0x10, 0x10] ++ [0xF0, 0x80, 0xF0, 0x10, 0xF0] ++
  [0xF0, 0x80, 0xF0, 0x90, 0xF0] ++ [0xF0, 0x10, 0x20, 0x40, 0x40] ++
  [0xF0, 0x90, 0xF0, 0x90, 0xF0] ++ [0xF0, 0x90, 0xF0, 0x10, 0xF0] ++
  [0xF0, 0x90, 0xF0, 0x90, 0x90] ++ [0xE0, 0x90, 0xE0, 0x90, 0xE0] ++
  [0xF0, 0x80, 0x80, 0x80, 0xF0] ++ [0xE0, 0x90, 0x90, 0x90, 0xE0] ++
  [0xF0, 0x80, 0xF0, 0x80, 0xF0] ++ [0xF0, 0x80, 0xF0, 0x80, 0x80]

/-- The defaults of 00_scope.md R4 (UNVERIFIED, log 9; `MEM_FILL` a DESIGN CHOICE of the spec, log 8). -/
def defaults : Params where
  fontBase := 0x050
  fontData := defaultFont
  stackDepth := 16
  memFill := 0x00

end Sys2Proof.Config
end

