-- ==== Sys2Proof/Machine/State.lean ====
section
/-! DEFINITION. The state of the machine as plain data (10_state.md), the reasons a step can stop, and
the state after reset (10_state.md R34). -/

namespace Sys2Proof.Machine

/-- `FAULT.code` (10_state.md R29, 60_exceptions.md R220). Code 7 is "never produced" and has no name. -/
inductive FaultCode where
  /-- 0: no fault, the core runs. -/
  | noFault
  /-- 1: `FetchFault`. -/
  | fetchFault
  /-- 2: `LoadFault`. -/
  | loadFault
  /-- 3: `StoreFault`. -/
  | storeFault
  /-- 4: `StackUnderflow`. -/
  | stackUnderflow
  /-- 5: `StackOverflow`. -/
  | stackOverflow
  /-- 6: `KeyIndexFault`. -/
  | keyIndexFault
  deriving DecidableEq, Repr

/-- The fault register `FAULT` (10_state.md R29). -/
structure FaultReg where
  code : FaultCode
  addr : Word
  deriving DecidableEq, Repr

/-- The events by which the machine changes state (00_scope.md R5). -/
inductive HostEvent where
  /-- `Reset` (70_reset_and_hazards.md R260). -/
  | reset
  /-- `Load(bytes)` (70_reset_and_hazards.md R261). -/
  | load (bytes : List Byte)
  /-- `Step`: one instruction cycle (30_encoding.md R80). -/
  | cycle
  /-- `Tick` (60_exceptions.md R229). -/
  | tick
  /-- `KeyWrite(k, b)` (60_exceptions.md R231). -/
  | keyWrite (k : Key) (b : Bool)
  deriving DecidableEq, Repr

/-- The Display Buffer: 32 rows of 64 one-bit pixels, `FB[y][x]` (10_state.md R27). -/
abbrev FrameBuffer := Vector (Vector Bool 64) 32

/-- The bytes of `MEM` that differ from `MEM_FILL`, by address (10_state.md R28). The canonical form and
the access functions are in Machine/Memory.lean. -/
abbrev Memory := List Host.Cell

/-- Why the machine stops with a fault: it never does, so there is no reason. An instruction's fault
(60_exceptions.md R220) is a next state with `FAULT` written, because the spec describes its entry; an
over-long `Load` (70_reset_and_hazards.md R262) is a next state with the error reported. -/
inductive Fault where
  deriving DecidableEq, Repr

/-- Why the model gives no answer. -/
inductive Refusal where
  /-- Raised by no arm: it stands for an instruction that has no meaning yet, and every instruction has
  one. Safe: the model stops. -/
  | notModelled (mnemonic : String)
  deriving DecidableEq, Repr

/-- The state: everything 10_state.md gives the machine, the outputs that keep their value, the
parameters, and three fields of the model's own (`loadError`, `draws`, `agenda`). -/
structure State where
  /-- `V[0]` to `V[15]` (R20). -/
  v : Vector Byte 16
  /-- `I` (R22). -/
  index : Word
  /-- `PC` (R23). -/
  pc : Word
  /-- `SP`, the number of live return addresses (R24). -/
  sp : Nat
  /-- `STACK[0 .. STACK_DEPTH-1]` (R24). -/
  stack : List Word
  /-- `DT` (R25). -/
  dt : Byte
  /-- `ST` (R25). -/
  st : Byte
  /-- `KEY[0]` to `KEY[15]`, true when pressed (R26). -/
  keys : Vector Bool 16
  /-- `FB` (R27). -/
  fb : FrameBuffer
  /-- `MEM` (R28). -/
  mem : Memory
  /-- `FAULT` (R29). -/
  fault : FaultReg
  /-- `diag_class` (R32). -/
  diagClass : Nibble
  /-- `diag_unrecognized` (R32). -/
  diagUnrecognized : Bool
  /-- MODEL: the latest `Load` since `Reset` reported a load error (70_reset_and_hazards.md R262; log 5). -/
  loadError : Bool
  /-- The parameters (R35): no step writes them (log 1). -/
  cfg : Config.Params
  /-- MODEL: how many bytes have been sampled from `rnd` (R31; log 3). -/
  draws : Nat
  /-- MODEL: the events the host has decided on, next first (00_scope.md R5; log 4). -/
  agenda : List HostEvent
  deriving DecidableEq, Repr

/-- The machine right after `Reset`, with the default parameters (10_state.md R34). The stack's entries,
which R34 leaves unspecified, are zero (log 2). -/
def State.reset : State where
  v := Vector.replicate 16 0
  index := 0
  pc := 0x200
  sp := 0
  stack := List.replicate 16 0
  dt := 0
  st := 0
  keys := Vector.replicate 16 false
  fb := Vector.replicate 32 (Vector.replicate 64 false)
  mem := []
  fault := ⟨.noFault, 0⟩
  diagClass := 0
  diagUnrecognized := false
  loadError := false
  cfg := Config.defaults
  draws := 0
  agenda := []

end Sys2Proof.Machine
end

