-- ==== Sys2Proof/Machine/Memory.lean ====
section
/-! DEFINITION. The memory as a list of (address, byte) pairs in one canonical form: addresses strictly
rising, all below 4096 (20_memory.md R50), and no entry equal to `MEM_FILL`, the byte of an address that
is not listed (10_state.md R28; log 8). -/

namespace Sys2Proof.Machine

/-- `MEM[a]`. An unlisted address reads as `MEM_FILL`. -/
def Memory.read (fill : Byte) : Memory → Nat → Byte
  | [], _ => fill
  | (k, v) :: rest, a => if a = k then v else Memory.read fill rest a

/-- The cell for byte `b` at address `a` in front of `rest`: none when `b` is `MEM_FILL`. -/
def Memory.cell (fill : Byte) (a : Nat) (b : Byte) (rest : Memory) : Memory :=
  if b = fill then rest else (a, b) :: rest

/-- `MEM[a] <- b`, keeping the canonical form. -/
def Memory.write (fill : Byte) : Memory → Nat → Byte → Memory
  | [], a, b => Memory.cell fill a b []
  | (k, v) :: rest, a, b =>
    if a < k then Memory.cell fill a b ((k, v) :: rest)
    else if a = k then Memory.cell fill a b rest
    else (k, v) :: Memory.write fill rest a b

/-- The addresses listed are `lo` or more, strictly rising and below 4096, and no byte is `fill`. -/
def Memory.wfFrom (fill : Byte) : Nat → Memory → Bool
  | _, [] => true
  | lo, (k, v) :: rest =>
    decide (lo ≤ k) && decide (k < Config.memSize) && decide (v ≠ fill) && Memory.wfFrom fill (k + 1) rest

/-- The canonical form. -/
def Memory.wf (fill : Byte) (m : Memory) : Bool := Memory.wfFrom fill 0 m

end Sys2Proof.Machine
end

