-- ==== Sys2Proof/Machine/Ops.lean ====
section
/-! DEFINITION. The shared operations over registers, program counter, stack and memory (00_scope.md R8;
20_memory.md R54, R55), the fetch, and fault entry (60_exceptions.md R222). -/

namespace Sys2Proof.Machine

/-- What one event or one meaning answers. -/
abbrev Result := Host.Outcome State Fault Refusal

namespace State

/-! ### General registers (10_state.md R20) -/

/-- `V[x]`. -/
def reg (s : State) (x : Reg) : Byte := s.v[x.val]

/-- `V[x] <- b`. -/
def setReg (s : State) (x : Reg) (b : Byte) : State := { s with v := s.v.set x.val b }

/-! ### Index register, timers, display (10_state.md R22, R25, R27) -/

/-- `I <- w`. -/
def setIndex (s : State) (w : Word) : State := { s with index := w }

/-- `DT <- b`. -/
def setDt (s : State) (b : Byte) : State := { s with dt := b }

/-- `ST <- b`. -/
def setSt (s : State) (b : Byte) : State := { s with st := b }

/-- The whole Display Buffer replaced. -/
def setFb (s : State) (f : FrameBuffer) : State := { s with fb := f }

/-- `KEY[k]` (10_state.md R26). -/
def key (s : State) (k : Key) : Bool := s.keys[k.val]

/-- The host's events still to happen (00_scope.md R5; log 4). -/
def setAgenda (s : State) (es : List HostEvent) : State := { s with agenda := es }

/-! ### Program counter (10_state.md R23) -/

/-- `PC <- w`. -/
def setPc (s : State) (w : Word) : State := { s with pc := w }

/-- The fetch's advance, and a taken skip: `PC <- (PC + 2) mod 65536` (R23, 40_control.md R110). -/
def advancePc (s : State) : State := s.setPc (s.pc + 2)

/-- `PC <- PC - 2`: undoes the fetch's advance (44_keys_timers.md R202, 60_exceptions.md R222). -/
def rewindPc (s : State) : State := s.setPc (s.pc - 2)

/-- `if c: pc <- (PC + 2) mod 65536` (40_control.md R110). -/
def skipIf (s : State) (c : Bool) : State := if c then s.advancePc else s

/-! ### Call stack (10_state.md R24) -/

/-- `STACK[SP] <- w; SP <- SP + 1` (40_control.md R113). -/
def push (s : State) (w : Word) : State := { s with stack := s.stack.set s.sp w, sp := s.sp + 1 }

/-- `STACK[SP - 1]`, the newest return address (40_control.md R111). -/
def top (s : State) : Word := s.stack.getD (s.sp - 1) 0

/-- `SP <- SP - 1`; the popped entry stays in `STACK` but is dead (40_control.md R111). -/
def drop (s : State) : State := { s with sp := s.sp - 1 }

/-! ### Memory bytes (10_state.md R28) -/

/-- `MEM[a]`. -/
def readByte (s : State) (a : Nat) : Byte := s.mem.read s.cfg.memFill a

/-- `MEM[a] <- b`, `a` in range. -/
def writeByte (s : State) (a : Nat) (b : Byte) : State := { s with mem := s.mem.write s.cfg.memFill a b }

/-- `n` bytes from `a` up, lowest address first (20_memory.md R58). -/
def readBytes (s : State) : Nat → Nat → List Byte
  | _, 0 => []
  | a, n + 1 => s.readByte a :: readBytes s (a + 1) n

/-- A sequence of byte writes from `a` up, lowest address first (20_memory.md R58). -/
def writeBytes (s : State) : Nat → List Byte → State
  | _, [] => s
  | a, b :: bs => writeBytes (s.writeByte a b) (a + 1) bs

/-! ### Faults (60_exceptions.md R220 to R223) -/

/-- `FAULT.code` and `FAULT.addr` are set. -/
def recordFault (s : State) (c : FaultCode) (a : Word) : State := { s with fault := ⟨c, a⟩ }

/-- The core is halted (60_exceptions.md R223). -/
def halted (s : State) : Bool := s.fault.code ≠ .noFault

end State

/-- FAULT ENTRY from the execute phase (60_exceptions.md R222), the one operation every `raise` of an
instruction goes through. `s` is the state after the fetch, before any write of the instruction (R224:
the `raise` comes before any write), so discarding the cycle's writes is undoing the advance of `PC`;
then the fault is recorded. Nothing else changes. There is no handler and no return: only `Reset`
(`State.afterReset`) clears the fault (R223). -/
def takeFault (c : FaultCode) (a : Word) (s : State) : Result := .next (s.rewindPc.recordFault c a)

/-- The `Reset` event (70_reset_and_hazards.md R260, 10_state.md R34): the only way out of a fault. The
parameters, the bytes sampled from outside so far and the host's agenda are not the core's and stay. -/
def State.afterReset (s : State) : State where
  v := Vector.replicate 16 0
  index := 0
  pc := 0x200
  sp := 0
  stack := List.replicate s.cfg.stackDepth 0
  dt := 0
  st := 0
  keys := Vector.replicate 16 false
  fb := Vector.replicate 32 (Vector.replicate 64 false)
  mem := []
  fault := ⟨.noFault, 0⟩
  diagClass := 0
  diagUnrecognized := false
  loadError := false
  cfg := s.cfg
  draws := s.draws
  agenda := s.agenda

/-- `max(w, 0x1000)`: the lowest out-of-range address of a sequence that starts at `w` and leaves the
memory (20_memory.md R54, R59). -/
def firstOutOfRange (w : Word) : Word := if w.toNat ≤ 0xFFF then 0x1000 else w

/-- The address `last` is above 0xFFF (20_memory.md R52, R59). -/
def outOfRange (last : Nat) : Bool := 0xFFF < last

/-- `MemRead(addr, 1)` (20_memory.md R54): the byte, or the out-of-range address. -/
def memRead1 (s : State) (a : Word) : Except Word Byte :=
  if outOfRange a.toNat then .error (firstOutOfRange a) else .ok (s.readByte a.toNat)

/-- `MemRead(addr, 2)` (20_memory.md R54), big-endian (R56). -/
def memRead2 (s : State) (a : Word) : Except Word Word :=
  if outOfRange (a.toNat + 1) then .error (firstOutOfRange a)
  else .ok (wordOfBytes (s.readByte a.toNat) (s.readByte (a.toNat + 1)))

/-- `MemWrite(addr, 1, v)` (20_memory.md R55). -/
def memWrite1 (s : State) (a : Word) (b : Byte) : Except Word State :=
  if outOfRange a.toNat then .error a else .ok (s.writeByte a.toNat b)

/-- The fetch: the word at `PC`, or the address for `FetchFault` (30_encoding.md R80). -/
def fetch (s : State) : Except Word Word := memRead2 s s.pc

end Sys2Proof.Machine
end

