-- ==== Sys2Proof/Machine/Flags.lean ====
section
/-! DEFINITION. Every flag computation (10_state.md R21) and the arithmetic results (41_alu.md R131): the
exact number first, then the reduction. The result and its flag are written in the order of 41_alu.md
R130, the flag last. -/

namespace Sys2Proof.Machine

/-- A flag as a register value: 0 or 1 (10_state.md R21). -/
def flagByte (b : Bool) : Byte := if b then 1 else 0

/-- Carry out: 1 exactly when `a + b > 255` (41_alu.md R131, R138). -/
def carryOut (a b : Byte) : Bool := a.toNat + b.toNat > 255

/-- NOT borrow of `a - b`: 1 exactly when `a >= b` (41_alu.md R131, R139, R141). -/
def notBorrow (a b : Byte) : Bool := a.toNat ≥ b.toNat

/-- The bit SHR shifts out, `a[0]` (41_alu.md R140). -/
def evictedLow (a : Byte) : Bool := a.getLsbD 0

/-- The bit SHL shifts out, `a[7]` (41_alu.md R142). -/
def evictedHigh (a : Byte) : Bool := a.getLsbD 7

/-- `(a + b) mod 256` (41_alu.md R131). -/
def sum8 (a b : Byte) : Byte := BitVec.ofNat 8 ((a.toNat + b.toNat) % 256)

/-- `(a - b) mod 256`: `a - b` when `a >= b`, else `a - b + 256` (41_alu.md R131). -/
def diff8 (a b : Byte) : Byte :=
  BitVec.ofNat 8 (if a.toNat ≥ b.toNat then a.toNat - b.toNat else a.toNat + 256 - b.toNat)

/-- `a >> 1`, the vacated bit 0 (41_alu.md R131, R140). -/
def half8 (a : Byte) : Byte := BitVec.ofNat 8 (a.toNat / 2)

/-- `(a << 1) mod 256` (41_alu.md R131, R142). -/
def double8 (a : Byte) : Byte := BitVec.ofNat 8 (2 * a.toNat % 256)

/-- `V[X] <- result`, then `V[15] <- flag` as the LAST write (41_alu.md R130). -/
def State.writeResultThenFlag (s : State) (x : Reg) (result : Byte) (flag : Bool) : State :=
  (s.setReg x result).setReg VF (flagByte flag)

end Sys2Proof.Machine
end

