-- ==== Sys2Proof/Machine/Operands.lean ====
section
/-! DEFINITION. Every operand form: zero-extended immediates (30_encoding.md R83), the effective address
index plus offset (42_index_memory.md R166), the register block `V[0]` to `V[X]`, the key index, and the
bytes of an access sequence (20_memory.md R58). -/

namespace Sys2Proof.Machine

/-- `zext_16(NNN)` (30_encoding.md R83). -/
def zextNNN (nnn : Addr12) : Word := nnn.zeroExtend 16

/-- The effective address `I + i`, an unbounded natural number (20_memory.md R52). -/
def State.effAddr (s : State) (i : Nat) : Nat := s.index.toNat + i

/-- The bytes of `V[0]` to `V[x]`, lowest register first (42_index_memory.md R164). -/
def State.regBlock (s : State) (x : Reg) : List Byte := (s.v.toList).take (x.val + 1)

/-- `V[i] <- bytes[i]` for `i` from 0 up, ascending; the registers above are untouched
(42_index_memory.md R165). -/
def State.loadRegs (s : State) : Nat → List Byte → State
  | _, [] => s
  | i, b :: bs => if h : i < 16 then State.loadRegs (s.setReg ⟨i, h⟩ b) (i + 1) bs else s

/-- The key that a register value names: none above 15 (44_keys_timers.md R200). -/
def keyOf (b : Byte) : Option Key := if h : b.toNat < 16 then some ⟨b.toNat, h⟩ else none

/-- The smallest `k` with `KEY[k] = 1` (44_keys_timers.md R202). -/
def State.lowestKey (s : State) : Option Key := (List.finRange 16).find? s.key

/-- A key index as a register value. -/
def keyByte (k : Key) : Byte := BitVec.ofNat 8 k.val

/-- The three decimal digits of a byte, hundreds first (42_index_memory.md R163). -/
def bcdDigits (v : Byte) : List Byte :=
  [BitVec.ofNat 8 (v.toNat / 100), BitVec.ofNat 8 (v.toNat / 10 % 10), BitVec.ofNat 8 (v.toNat % 10)]

/-- `FONT_BASE + 5 * V[X]`, all 8 bits of `V[X]` taking part (42_index_memory.md R162). -/
def fontAddr (base : Nat) (v : Byte) : Word := BitVec.ofNat 16 (base + 5 * v.toNat)

end Sys2Proof.Machine
end

