-- ==== Sys2Proof/Machine/Alu.lean ====
section
/-! DEFINITION. Immediate, ALU and random instructions (41_alu.md). Both sources are read before anything
is written (R130). -/

namespace Sys2Proof.Machine

/-- `load-imm Vx, NN` (R132). -/
def execLoadImm (x : Reg) (nn : Byte) (s : State) : Result := .next (s.setReg x nn)

/-- `add-imm Vx, NN` (R133): modulo 256, no flag. -/
def execAddImm (x : Reg) (nn : Byte) (s : State) : Result := .next (s.setReg x (sum8 (s.reg x) nn))

/-- `set Vx, Vy` (R134). -/
def execSetReg (x y : Reg) (s : State) : Result := .next (s.setReg x (s.reg y))

/-- `or Vx, Vy` (R135): VF is not written. -/
def execOrReg (x y : Reg) (s : State) : Result := .next (s.setReg x (s.reg x ||| s.reg y))

/-- `and Vx, Vy` (R136): VF is not written. -/
def execAndReg (x y : Reg) (s : State) : Result := .next (s.setReg x (s.reg x &&& s.reg y))

/-- `xor Vx, Vy` (R137): VF is not written. -/
def execXorReg (x y : Reg) (s : State) : Result := .next (s.setReg x (s.reg x ^^^ s.reg y))

/-- `add Vx, Vy` (R138): VF is the carry. -/
def execAddReg (x y : Reg) (s : State) : Result :=
  .next (s.writeResultThenFlag x (sum8 (s.reg x) (s.reg y)) (carryOut (s.reg x) (s.reg y)))

/-- `sub Vx, Vy` (R139): `V[X] - V[Y]`, VF is NOT borrow. -/
def execSubReg (x y : Reg) (s : State) : Result :=
  .next (s.writeResultThenFlag x (diff8 (s.reg x) (s.reg y)) (notBorrow (s.reg x) (s.reg y)))

/-- `shr Vx` (R140): VF is the old bit 0. -/
def execShr (x : Reg) (s : State) : Result :=
  .next (s.writeResultThenFlag x (half8 (s.reg x)) (evictedLow (s.reg x)))

/-- `subn Vx, Vy` (R141): `V[Y] - V[X]`, VF is NOT borrow. -/
def execSubnReg (x y : Reg) (s : State) : Result :=
  .next (s.writeResultThenFlag x (diff8 (s.reg y) (s.reg x)) (notBorrow (s.reg y) (s.reg x)))

/-- `shl Vx` (R142): VF is the old bit 7. -/
def execShl (x : Reg) (s : State) : Result :=
  .next (s.writeResultThenFlag x (double8 (s.reg x)) (evictedHigh (s.reg x)))

/-- `random` with the byte `rnd` on the input (R143): the input is sampled once, and the next sample is
another byte (log 3). -/
def randomWith (rnd : Byte) (x : Reg) (nn : Byte) (s : State) : State :=
  { s.setReg x (rnd &&& nn) with draws := s.draws + 1 }

/-- `random Vx, NN` (R143): the byte is the free value `Config.rndInput`. -/
def execRandom (x : Reg) (nn : Byte) (s : State) : Result :=
  .next (randomWith (Config.rndInput s.draws) x nn s)

end Sys2Proof.Machine
end

