-- ==== Sys2Proof/Machine/Control.lean ====
section
/-! DEFINITION. Control transfer (40_control.md). `s.pc` is the address of the instruction after the
current one: the fetch has advanced it (30_encoding.md R80). -/

namespace Sys2Proof.Machine

/-- `return` (R111): pop into `PC`; `StackUnderflow` when the stack is empty. -/
def execRet (s : State) : Result :=
  if s.sp = 0 then takeFault .stackUnderflow 0 s
  else .next (s.drop.setPc s.top)

/-- `jump NNN` (R112). -/
def execJump (nnn : Addr12) (s : State) : Result := .next (s.setPc (zextNNN nnn))

/-- `call NNN` (R113): push the advanced `PC`; `StackOverflow` when all `STACK_DEPTH` entries are live. -/
def execCall (nnn : Addr12) (s : State) : Result :=
  if s.sp = s.cfg.stackDepth then takeFault .stackOverflow 0 s
  else .next ((s.push s.pc).setPc (zextNNN nnn))

/-- `skip-eq-imm Vx, NN` (R114). -/
def execSkipEqImm (x : Reg) (nn : Byte) (s : State) : Result := .next (s.skipIf (s.reg x == nn))

/-- `skip-neq-imm Vx, NN` (R115). -/
def execSkipNeqImm (x : Reg) (nn : Byte) (s : State) : Result := .next (s.skipIf (s.reg x != nn))

/-- `skip-eq-reg Vx, Vy` (R116). -/
def execSkipEqReg (x y : Reg) (s : State) : Result := .next (s.skipIf (s.reg x == s.reg y))

/-- `skip-neq-reg Vx, Vy` (R117). -/
def execSkipNeqReg (x y : Reg) (s : State) : Result := .next (s.skipIf (s.reg x != s.reg y))

/-- `jump-offset NNN` (R118): `V[0]`, never `V[X]`; the sum fits 16 bits and is not reduced further. -/
def execJumpOffset (nnn : Addr12) (s : State) : Result :=
  .next (s.setPc (zextNNN nnn + (s.reg 0).zeroExtend 16))

end Sys2Proof.Machine
end

