-- ==== Sys2Proof/Machine/Plot.lean ====
section
/-! DEFINITION. The display-buffer address generator and the XOR-plot with collision detection
(43_display.md R181, R182). -/

namespace Sys2Proof.Machine

/-- `FB[y][x]`. -/
def FrameBuffer.pixel (f : FrameBuffer) (x : Fin 64) (y : Fin 32) : Bool := (f[y.val])[x.val]

/-- Every pixel 0 (43_display.md R180). -/
def FrameBuffer.blank : FrameBuffer := Vector.replicate 32 (Vector.replicate 64 false)

/-- Column `(vx + col) mod 64` (43_display.md R181). -/
def pixelX (vx : Byte) (col : Nat) : Fin 64 := ⟨(vx.toNat + col) % 64, Nat.mod_lt _ (by decide)⟩

/-- Row `(vy + row) mod 32` (43_display.md R181). -/
def pixelY (vy : Byte) (row : Nat) : Fin 32 := ⟨(vy.toNat + row) % 32, Nat.mod_lt _ (by decide)⟩

/-- The linear hardware address `y * 64 + x` of a pixel, 0 to 2047 (43_display.md R181). -/
def pixelAddress (x : Fin 64) (y : Fin 32) : BitVec 11 := BitVec.ofNat 11 (y.val * 64 + x.val)

/-- `FB[y][x] <- FB[y][x] xor 1`. -/
def FrameBuffer.toggle (f : FrameBuffer) (x : Fin 64) (y : Fin 32) : FrameBuffer :=
  f.set y.val ((f[y.val]).set x.val (!f.pixel x y))

/-- The state of a drawing: the buffer so far, and whether a plot has found its pixel at 1. -/
structure Canvas where
  fb : FrameBuffer
  collision : Bool
  deriving DecidableEq, Repr

/-- XOR-plot one pixel, noting a collision (43_display.md R182). -/
def Canvas.plot (c : Canvas) (x : Fin 64) (y : Fin 32) : Canvas :=
  ⟨c.fb.toggle x y, c.collision || c.fb.pixel x y⟩

/-- Column `col` of a sprite row: bit 7 is the leftmost pixel (43_display.md R183; UNVERIFIED, log 11). -/
def spriteBit (b : Byte) (col : Nat) : Bool := b.getLsbD (7 - col)

/-- Columns 0 to `n - 1` of one sprite row, ascending: each set bit is plotted, a 0 bit leaves its pixel
untouched (43_display.md R182, R183). -/
def Canvas.plotCols (vx vy b : Byte) (row : Nat) : Nat → Canvas → Canvas
  | 0, c => c
  | col + 1, c =>
    let c' := Canvas.plotCols vx vy b row col c
    if spriteBit b col then c'.plot (pixelX vx col) (pixelY vy row) else c'

/-- The sprite's rows from number `row` on, ascending (43_display.md R183). -/
def Canvas.plotRows (vx vy : Byte) : Nat → List Byte → Canvas → Canvas
  | _, [], c => c
  | row, b :: bs, c => Canvas.plotRows vx vy (row + 1) bs (Canvas.plotCols vx vy b row 8 c)

end Sys2Proof.Machine
end

