-- ==== Sys2Proof/Machine/Display.lean ====
section
/-! DEFINITION. Display instructions (43_display.md). -/

namespace Sys2Proof.Machine

/-- `clear-screen` (R180): VF is not written. -/
def execClearScreen (s : State) : Result := .next (s.setFb FrameBuffer.blank)

/-- The drawing of `draw Vx, Vy, N`: coordinates, sprite bytes and buffer as they are before any write. -/
def State.drawing (s : State) (x y : Reg) (n : Nat) : Canvas :=
  Canvas.plotRows (s.reg x) (s.reg y) 0 (s.readBytes (s.effAddr 0) n) ⟨s.fb, false⟩

/-- Some sprite byte is out of range: `N > 0 and I + N - 1 > 0xFFF` (R183). -/
def State.spriteOutOfRange (s : State) (n : Nat) : Bool := 0 < n && outOfRange (s.effAddr (n - 1))

/-- `draw Vx, Vy, N` (R183): VF is the collision bit, always written, after the coordinates are read. -/
def execDraw (x y : Reg) (n : Nat) (s : State) : Result :=
  if s.spriteOutOfRange n then takeFault .loadFault (firstOutOfRange s.index) s
  else .next ((s.setFb (s.drawing x y n).fb).setReg VF (flagByte (s.drawing x y n).collision))

end Sys2Proof.Machine
end

