-- ==== Sys2Proof/Machine/IndexMemory.lean ====
section
/-! DEFINITION. Index register and memory instructions (42_index_memory.md). The whole access sequence is
range-checked before any of it is performed (20_memory.md R59), and `I` is not changed by an access
(R166). -/

namespace Sys2Proof.Machine

/-- Perform `body` when the highest address `I + last` of the sequence is in range; else take the fault
with the lowest out-of-range address `max(I, 0x1000)` (20_memory.md R59). -/
def withRange (c : FaultCode) (last : Nat) (s : State) (body : State) : Result :=
  if outOfRange (s.effAddr last) then takeFault c (firstOutOfRange s.index) s else .next body

/-- `set-index NNN` (R160). -/
def execSetIndex (nnn : Addr12) (s : State) : Result := .next (s.setIndex (zextNNN nnn))

/-- `add-index Vx` (R161): modulo 65536, no flag. -/
def execAddIndex (x : Reg) (s : State) : Result :=
  .next (s.setIndex (BitVec.ofNat 16 ((s.index.toNat + (s.reg x).toNat) % 65536)))

/-- `font-char Vx` (R162). -/
def execFontChar (x : Reg) (s : State) : Result := .next (s.setIndex (fontAddr s.cfg.fontBase (s.reg x)))

/-- `bcd-store Vx` (R163): hundreds, tens, units to `I`, `I + 1`, `I + 2`. -/
def execBcdStore (x : Reg) (s : State) : Result :=
  withRange .storeFault 2 s (s.writeBytes (s.effAddr 0) (bcdDigits (s.reg x)))

/-- `reg-dump Vx` (R164): `V[0]` to `V[X]` to memory at `I` up. -/
def execRegDump (x : Reg) (s : State) : Result :=
  withRange .storeFault x.val s (s.writeBytes (s.effAddr 0) (s.regBlock x))

/-- `reg-load Vx` (R165): memory at `I` up to `V[0]` to `V[X]`. -/
def execRegLoad (x : Reg) (s : State) : Result :=
  withRange .loadFault x.val s (s.loadRegs 0 (s.readBytes (s.effAddr 0) (x.val + 1)))

end Sys2Proof.Machine
end

