-- ==== Sys2Proof/Machine/KeysTimers.lean ====
section
/-! DEFINITION. Key and timer instructions (44_keys_timers.md). -/

namespace Sys2Proof.Machine

/-- Skip when key `V[X]` has the state `want`; `KeyIndexFault` with `FAULT.addr` = `V[X]` when `V[X]` is
above 15 (R200, R201). -/
def skipOnKey (want : Bool) (x : Reg) (s : State) : Result :=
  match keyOf (s.reg x) with
  | none => takeFault .keyIndexFault ((s.reg x).zeroExtend 16) s
  | some k => .next (s.skipIf (s.key k == want))

/-- `skip-if-key Vx` (R200). -/
def execSkipIfKey (x : Reg) (s : State) : Result := skipOnKey true x s

/-- `skip-if-not-key Vx` (R201). -/
def execSkipIfNotKey (x : Reg) (s : State) : Result := skipOnKey false x s

/-- `wait-for-key Vx` (R202): with no key pressed, `PC` goes back to this instruction and nothing else
changes. -/
def execWaitForKey (x : Reg) (s : State) : Result :=
  match s.lowestKey with
  | none => .next s.rewindPc
  | some k => .next (s.setReg x (keyByte k))

/-- `get-delay Vx` (R203). -/
def execGetDelay (x : Reg) (s : State) : Result := .next (s.setReg x s.dt)

/-- `set-delay Vx` (R204). -/
def execSetDelay (x : Reg) (s : State) : Result := .next (s.setDt (s.reg x))

/-- `set-sound Vx` (R205). -/
def execSetSound (x : Reg) (s : State) : Result := .next (s.setSt (s.reg x))

end Sys2Proof.Machine
end

