-- ==== Sys2Proof/Machine/Dispatch.lean ====
section
/-! DEFINITION. One arm per instruction: the execute phase (30_encoding.md R80), `PC` already advanced. -/

namespace Sys2Proof.Machine

def exec (i : Instr) (s : State) : Host.Outcome State Fault Refusal :=
  match i with
  | .clearScreen => Sys2Proof.Machine.execClearScreen s
  | .ret => Sys2Proof.Machine.execRet s
  | .jump nnn => Sys2Proof.Machine.execJump nnn s
  | .call nnn => Sys2Proof.Machine.execCall nnn s
  | .skipEqImm x nn => Sys2Proof.Machine.execSkipEqImm x nn s
  | .skipNeqImm x nn => Sys2Proof.Machine.execSkipNeqImm x nn s
  | .skipEqReg x y => Sys2Proof.Machine.execSkipEqReg x y s
  | .loadImm x nn => Sys2Proof.Machine.execLoadImm x nn s
  | .addImm x nn => Sys2Proof.Machine.execAddImm x nn s
  | .setReg x y => Sys2Proof.Machine.execSetReg x y s
  | .orReg x y => Sys2Proof.Machine.execOrReg x y s
  | .andReg x y => Sys2Proof.Machine.execAndReg x y s
  | .xorReg x y => Sys2Proof.Machine.execXorReg x y s
  | .addReg x y => Sys2Proof.Machine.execAddReg x y s
  | .subReg x y => Sys2Proof.Machine.execSubReg x y s
  | .shr x => Sys2Proof.Machine.execShr x s
  | .subnReg x y => Sys2Proof.Machine.execSubnReg x y s
  | .shl x => Sys2Proof.Machine.execShl x s
  | .skipNeqReg x y => Sys2Proof.Machine.execSkipNeqReg x y s
  | .setIndex nnn => Sys2Proof.Machine.execSetIndex nnn s
  | .jumpOffset nnn => Sys2Proof.Machine.execJumpOffset nnn s
  | .random x nn => Sys2Proof.Machine.execRandom x nn s
  | .draw x y n => Sys2Proof.Machine.execDraw x y n s
  | .skipIfKey x => Sys2Proof.Machine.execSkipIfKey x s
  | .skipIfNotKey x => Sys2Proof.Machine.execSkipIfNotKey x s
  | .getDelay x => Sys2Proof.Machine.execGetDelay x s
  | .waitForKey x => Sys2Proof.Machine.execWaitForKey x s
  | .setDelay x => Sys2Proof.Machine.execSetDelay x s
  | .setSound x => Sys2Proof.Machine.execSetSound x s
  | .addIndex x => Sys2Proof.Machine.execAddIndex x s
  | .fontChar x => Sys2Proof.Machine.execFontChar x s
  | .bcdStore x => Sys2Proof.Machine.execBcdStore x s
  | .regDump x => Sys2Proof.Machine.execRegDump x s
  | .regLoad x => Sys2Proof.Machine.execRegLoad x s

end Sys2Proof.Machine
end

