-- ==== Sys2Proof/Machine/Events.lean ====
section
/-! DEFINITION. The events that are not an instruction cycle, `Tick`, `KeyWrite`, `Load`
(60_exceptions.md R229, R231; 70_reset_and_hazards.md R261, R262; `Reset` is `State.afterReset` in
Machine/Ops.lean), and the outputs (10_state.md R32). -/

namespace Sys2Proof.Machine

/-- A timer counted down by one, saturating at 0 (60_exceptions.md R229). -/
def countDown (t : Byte) : Byte := if t.toNat > 0 then t - 1 else 0

/-- `Tick` (60_exceptions.md R229): both timers, halted or not. -/
def State.tick (s : State) : State := { s with dt := countDown s.dt, st := countDown s.st }

/-- `KeyWrite(k, b)` (60_exceptions.md R231). -/
def State.keyWrite (s : State) (k : Key) (b : Bool) : State := { s with keys := s.keys.set k.val b }

/-- The writes of a successful `Load`: the font table, then the program (70_reset_and_hazards.md R261). -/
def State.loadImage (s : State) (bytes : List Byte) : State :=
  (s.writeBytes s.cfg.fontBase s.cfg.fontData).writeBytes Config.progBase bytes

/-- The result of a `Load`, which goes to the host and to nobody else (70_reset_and_hazards.md R262; log 5). -/
def State.report (s : State) (error : Bool) : State := { s with loadError := error }

/-- `Load(bytes)` (70_reset_and_hazards.md R261, R262): a program of more than 3584 bytes is reported and
nothing else changes; the core does not keep the host from going on. -/
def State.loadProgram (s : State) (bytes : List Byte) : State :=
  if bytes.length > Config.maxProgLen then s.report true else (s.loadImage bytes).report false

/-- The order in which strobes of one clock period act: `Step`, `Tick`, `KeyWrite`
(60_exceptions.md R224). -/
def HostEvent.sameClock (step tick : Bool) (key : Option (Key × Bool)) : List HostEvent :=
  (if step then [.cycle] else []) ++ (if tick then [.tick] else []) ++
  (match key with | some (k, b) => [.keyWrite k b] | none => [])

/-! ### Outputs (10_state.md R32) -/

/-- `tone_active`: 1 exactly while `ST > 0` (60_exceptions.md R230). -/
def State.toneActive (s : State) : Bool := s.st.toNat > 0

/-- The display read port (60_exceptions.md R232). -/
def State.pixel (s : State) (x : Fin 64) (y : Fin 32) : Bool := s.fb.pixel x y

/-- The 3 bits of a fault code (10_state.md R29). -/
def FaultCode.bits : FaultCode → BitVec 3
  | .noFault => 0
  | .fetchFault => 1
  | .loadFault => 2
  | .storeFault => 3
  | .stackUnderflow => 4
  | .stackOverflow => 5
  | .keyIndexFault => 6

/-- `fault_code` (10_state.md R32). -/
def State.faultCode (s : State) : BitVec 3 := s.fault.code.bits

/-- `fault_addr` (10_state.md R32). -/
def State.faultAddr (s : State) : Word := s.fault.addr

end Sys2Proof.Machine
end

