-- ==== Sys2Proof/Machine/Cycle.lean ====
section
/-! DEFINITION. The instruction cycle `Step` (30_encoding.md R80), and one host event of any kind
(00_scope.md R5). -/

namespace Sys2Proof.Machine

/-- The diagnostic outputs of a `Step` that fetched word `w` (30_encoding.md R80, R91). -/
def State.noteDiag (s : State) (w : Word) (unrecognized : Bool) : State :=
  { s with diagClass := classOf w, diagUnrecognized := unrecognized }

/-- The end of a cycle: the diagnostic outputs are written, unless the instruction faulted
(60_exceptions.md R222). -/
def finishCycle (w : Word) : Result → Result
  | .next t => if t.halted then .next t else .next (t.noteDiag w false)
  | .fault r => .fault r
  | .refused r => .refused r

/-- Decode and execute the fetched word, `PC` already advanced (30_encoding.md R80, R86). -/
def executeWord (w : Word) (s : State) : Result :=
  match decodeWord w with
  | .error _ => .next (s.noteDiag w true)
  | .ok i => finishCycle w (exec i s)

/-- One instruction cycle (30_encoding.md R80): nothing when halted; `FetchFault` with `PC` unchanged;
else fetch, advance, decode, execute. -/
def cycle (s : State) : Result :=
  if s.halted then .next s
  else match fetch s with
    | .error a => .next (s.recordFault .fetchFault a)
    | .ok w => executeWord w s.advancePc

/-- One event of the host's choice (00_scope.md R5). -/
def hostEvent (e : HostEvent) (s : State) : Result :=
  match e with
  | .reset => .next s.afterReset
  | .load bytes => .next (s.loadProgram bytes)
  | .cycle => cycle s
  | .tick => .next s.tick
  | .keyWrite k b => .next (s.keyWrite k b)

/-- The next event: the head of the agenda, else a `Step` (log 4). -/
def nextEvent (s : State) : Result :=
  match s.agenda with
  | [] => cycle s
  | e :: rest => hostEvent e (s.setAgenda rest)

/-- Where `State.withFetchWord` puts the word: at `PC`, or at 0x200 when nothing can be fetched at `PC`. -/
def fetchSlot (s : State) : Word := if outOfRange (s.pc.toNat + 1) then 0x200 else s.pc

/-- The word stored at the fetch slot, `PC` there, the core running and a `Step` the next event. -/
def placeWord (s : State) (w : Word) : State :=
  { s.writeBytes (fetchSlot s).toNat (bytesOfWord w) with
    pc := fetchSlot s, fault := ⟨.noFault, 0⟩, agenda := [] }

end Sys2Proof.Machine
end

