-- ==== Sys2Proof/Machine/Step.lean ====
section
/-! DEFINITION. The step, and the host's way to place one instruction. -/

namespace Sys2Proof.Machine

/-- One event (00_scope.md R5): a `Step`, unless the agenda names another. -/
def step (s : State) : Host.Outcome State Fault Refusal := nextEvent s

/-- `s` with the word `w` of `nbits` bits, numbered as spec/opcode_table.json numbers them, stored where
the next step fetches it. -/
def State.withFetchWord (s : State) (nbits w : Nat) : State := placeWord s (BitVec.ofNat 16 (w % 2 ^ nbits))

end Sys2Proof.Machine
end

