-- ==== Sys2Proof/Safety.lean ====
section
/-! DEFINITION. The terms claims are written in: what a legal state is, what a run gone wrong and a finished
run are, what a host must do, and the frame of a change. -/

namespace Sys2Proof.Machine

/-! ### Legal states -/

/-- The legal contents of `FAULT` (10_state.md R29, R33): address 0 for codes 0, 4, 5; an out-of-range
address for codes 1 to 3; a key index above 15, held in 8 bits, for code 6. -/
def FaultReg.legal (f : FaultReg) : Bool :=
  match f.code with
  | .noFault | .stackUnderflow | .stackOverflow => decide (f.addr = 0)
  | .fetchFault | .loadFault | .storeFault => decide (0x1000 ≤ f.addr.toNat)
  | .keyIndexFault => decide (16 ≤ f.addr.toNat) && decide (f.addr.toNat ≤ 255)

/-- `FaultReg.legal` as a statement. -/
abbrev FaultReg.Legal (f : FaultReg) : Prop := f.legal = true

/-- Every live stack entry is the address after some call, `A + 2` with `A` at most 0xFFE
(40_control.md R111, R113). -/
def State.liveReturnsLegal (s : State) : Bool :=
  (s.stack.take s.sp).all fun e => decide (2 ≤ e.toNat) && decide (e.toNat ≤ 0x1000)

/-- `State.liveReturnsLegal` as a statement. -/
abbrev State.LiveReturnsLegal (s : State) : Prop := s.liveReturnsLegal = true

/-- The invariant of the machine: legal parameters; memory in canonical form; `STACK` has `STACK_DEPTH`
entries and `SP` is 0 to `STACK_DEPTH` (10_state.md R24, R33); live entries are return addresses; `FAULT`
is legal; `PC` is at most 0x10FE, the largest target of jump-offset, so that no advance of `PC` ever wraps
(10_state.md R23, 40_control.md R118). -/
abbrev State.Inv (s : State) : Prop :=
  s.cfg.Legal ∧ s.mem.wf s.cfg.memFill = true ∧ s.stack.length = s.cfg.stackDepth ∧
  s.sp ≤ s.cfg.stackDepth ∧ s.LiveReturnsLegal ∧ s.fault.Legal ∧ s.pc.toNat ≤ 0x10FE

/-- The core runs: `FAULT.code` = 0 (10_state.md R29). -/
abbrev State.Running (s : State) : Prop := s.fault.code = .noFault

/-- The run has gone wrong: a halted core is never a finished program (60_exceptions.md R223). -/
abbrev State.GoneWrong (s : State) : Prop := ¬ s.Running

/-- The spec's suggested end of a run (70_reset_and_hazards.md R272, log 15): no fault, and the word at `PC`
is a jump to `PC` itself. -/
def State.Finished (s : State) : Prop :=
  s.Running ∧ ∃ nnn, fetch s = .ok (wordOPA 0x1 nnn) ∧ zextNNN nnn = s.pc

/-- What the word at `PC` is: in range, and these two bytes, big-endian (30_encoding.md R80). -/
abbrev State.HasWordAtPc (s : State) (w : Word) : Prop :=
  s.pc.toNat ≤ 0xFFE ∧ (s.readByte s.pc.toNat).toNat * 256 + (s.readByte (s.pc.toNat + 1)).toNat = w.toNat

/-- A `Step` is the next event and the core runs: what an instruction cycle needs. -/
abbrev State.ReadyToStep (s : State) : Prop := s.agenda = [] ∧ s.Running

/-! ### The host's duties (60_exceptions.md R234, 70_reset_and_hazards.md R263) -/

/-- Where a host stands between two resets. -/
inductive HostPhase where
  /-- After `Reset`, before a successful `Load`. -/
  | awaitLoad
  /-- After the one successful `Load`. -/
  | running
  deriving DecidableEq, Repr

/-- The events keep the host's duties from this phase on: one `Load` of at most 3584 bytes after each
`Reset` and before the first `Step`, and no `Load` afterwards. With no event left the machine goes on to `Step`s
(log 4), so a phase that still awaits its `Load` does not keep them: a successful `Load` is a premise of every run
(70_reset_and_hazards.md R262, decision D29; log 6). -/
def keepsProtocol : HostPhase → List HostEvent → Bool
  | .awaitLoad, [] => false
  | .running, [] => true
  | _, .reset :: es => keepsProtocol .awaitLoad es
  | ph, .tick :: es => keepsProtocol ph es
  | ph, .keyWrite _ _ :: es => keepsProtocol ph es
  | .awaitLoad, .load bytes :: es => decide (bytes.length ≤ Config.maxProgLen) && keepsProtocol .running es
  | .awaitLoad, .cycle :: _ => false
  | .running, .load _ :: _ => false
  | .running, .cycle :: es => keepsProtocol .running es

/-- The coming events keep the host's duties from the phase the host stands in, and no load error stands
reported. The phase is the host's and not in the state: right after `Reset` it is `awaitLoad`. -/
def State.HostKeepsDuties (s : State) : Prop :=
  (∃ ph, keepsProtocol ph s.agenda = true) ∧ s.loadError = false

/-! ### Frames -/

/-- The parts of the state other than the general registers. -/
inductive Part where
  | index | pc | stack | dt | st | keys | fb | mem | fault | diag | report | cfg | draws | agenda
  deriving DecidableEq, Repr

/-- The part is the same in both states. Memory is compared byte by byte through `readByte`. -/
def Part.same (s t : State) : Part → Prop
  | .index => t.index = s.index
  | .pc => t.pc = s.pc
  | .stack => t.sp = s.sp ∧ t.stack = s.stack
  | .dt => t.dt = s.dt
  | .st => t.st = s.st
  | .keys => ∀ k, t.key k = s.key k
  | .fb => ∀ x y, t.pixel x y = s.pixel x y
  | .mem => ∀ a, t.readByte a = s.readByte a
  | .fault => t.fault = s.fault
  | .diag => t.diagClass = s.diagClass ∧ t.diagUnrecognized = s.diagUnrecognized
  | .report => t.loadError = s.loadError
  | .cfg => t.cfg = s.cfg
  | .draws => t.draws = s.draws
  | .agenda => t.agenda = s.agenda

/-- From `s` to `t` nothing changes but, at most, the registers of `regs` and the parts of `parts`. -/
def OnlyChanges (s t : State) (regs : List Reg) (parts : List Part) : Prop :=
  (∀ r, r ∉ regs → t.reg r = s.reg r) ∧ ∀ p, p ∉ parts → p.same s t

end Sys2Proof.Machine

namespace Sys2Proof

open Sys2Proof.Machine (Part)

/-- The general registers an instruction may write as its destination (10_state.md R20, R21; 42_index_memory.md
R165 for the block of reg-load). -/
def Instr.destinations : Instr → List Reg
  | .loadImm x _ | .addImm x _ | .setReg x _ | .orReg x _ | .andReg x _ | .xorReg x _ | .addReg x _
  | .subReg x _ | .shr x | .subnReg x _ | .shl x | .random x _ | .getDelay x | .waitForKey x => [x]
  | .regLoad x => (List.finRange 16).filter (· ≤ x)
  | .clearScreen | .ret | .jump _ | .call _ | .skipEqImm _ _ | .skipNeqImm _ _ | .skipEqReg _ _
  | .skipNeqReg _ _ | .setIndex _ | .jumpOffset _ | .draw _ _ _ | .skipIfKey _ | .skipIfNotKey _
  | .setDelay _ | .setSound _ | .addIndex _ | .fontChar _ | .bcdStore _ | .regDump _ => []

/-- The six instructions that write VF as their last write (10_state.md R21, the table). -/
def Instr.setsFlag : Instr → Bool
  | .addReg _ _ | .subReg _ _ | .shr _ | .subnReg _ _ | .shl _ | .draw _ _ _ => true
  | .clearScreen | .ret | .jump _ | .call _ | .skipEqImm _ _ | .skipNeqImm _ _ | .skipEqReg _ _
  | .loadImm _ _ | .addImm _ _ | .setReg _ _ | .orReg _ _ | .andReg _ _ | .xorReg _ _ | .skipNeqReg _ _
  | .setIndex _ | .jumpOffset _ | .random _ _ | .skipIfKey _ | .skipIfNotKey _ | .getDelay _
  | .waitForKey _ | .setDelay _ | .setSound _ | .addIndex _ | .fontChar _ | .bcdStore _ | .regDump _
  | .regLoad _ => false

/-- Every register an instruction may write. -/
def Instr.writtenRegs (i : Instr) : List Reg := i.destinations ++ (if i.setsFlag then [VF] else [])

/-- The instructions with a `raise` in their rule (60_exceptions.md R220). -/
def Instr.mayFault : Instr → Bool
  | .ret | .call _ | .draw _ _ _ | .skipIfKey _ | .skipIfNotKey _ | .bcdStore _ | .regDump _ | .regLoad _ => true
  | .clearScreen | .jump _ | .skipEqImm _ _ | .skipNeqImm _ _ | .skipEqReg _ _ | .loadImm _ _
  | .addImm _ _ | .setReg _ _ | .orReg _ _ | .andReg _ _ | .xorReg _ _ | .addReg _ _ | .subReg _ _ | .shr _
  | .subnReg _ _ | .shl _ | .skipNeqReg _ _ | .setIndex _ | .jumpOffset _ | .random _ _ | .getDelay _
  | .waitForKey _ | .setDelay _ | .setSound _ | .addIndex _ | .fontChar _ => false

/-- What an instruction may write besides general registers when it does not fault: `PC` by the control
instructions, the skips and wait-for-key (10_state.md R23); the stack by call and return (R24); `I` by
set-index, add-index, font-char (R22); `DT`, `ST` by their stores (R25); the display by draw and clear-screen
(R27); memory by bcd-store and reg-dump (R28); the random input sampled by random (R31). -/
def Instr.writtenParts : Instr → List Part
  | .clearScreen | .draw _ _ _ => [.fb]
  | .ret | .call _ => [.pc, .stack]
  | .jump _ | .jumpOffset _ | .skipEqImm _ _ | .skipNeqImm _ _ | .skipEqReg _ _ | .skipNeqReg _ _
  | .skipIfKey _ | .skipIfNotKey _ | .waitForKey _ => [.pc]
  | .setIndex _ | .addIndex _ | .fontChar _ => [.index]
  | .random _ _ => [.draws]
  | .setDelay _ => [.dt]
  | .setSound _ => [.st]
  | .bcdStore _ | .regDump _ => [.mem]
  | .loadImm _ _ | .addImm _ _ | .setReg _ _ | .orReg _ _ | .andReg _ _ | .xorReg _ _ | .addReg _ _
  | .subReg _ _ | .shr _ | .subnReg _ _ | .shl _ | .getDelay _ | .regLoad _ => []

/-- How many bytes an instruction stores, from the effective address `I + 0` up (42_index_memory.md R163, R164). -/
def Instr.storedBytes : Instr → Nat
  | .bcdStore _ => 3
  | .regDump x => x.val + 1
  | .clearScreen | .ret | .jump _ | .call _ | .skipEqImm _ _ | .skipNeqImm _ _ | .skipEqReg _ _
  | .loadImm _ _ | .addImm _ _ | .setReg _ _ | .orReg _ _ | .andReg _ _ | .xorReg _ _ | .addReg _ _
  | .subReg _ _ | .shr _ | .subnReg _ _ | .shl _ | .skipNeqReg _ _ | .setIndex _ | .jumpOffset _
  | .random _ _ | .draw _ _ _ | .skipIfKey _ | .skipIfNotKey _ | .getDelay _ | .waitForKey _ | .setDelay _
  | .setSound _ | .addIndex _ | .fontChar _ | .regLoad _ => 0

end Sys2Proof

namespace Sys2Proof.Machine

/-- An instruction that faults, seen from the execute phase: `PC` goes back from the next instruction to this
one, `FAULT` is written, and nothing else changes (60_exceptions.md R222). -/
def TakesFault (i : Instr) (s : State) (c : FaultCode) (a : Word) : Prop :=
  exec i s = .next { s with pc := s.pc - 2, fault := ⟨c, a⟩ }

/-- `t` is `s` but for the diagnostic outputs (30_encoding.md R91: they are not state). -/
def SameButDiag (s t : State) : Prop :=
  t = { s with diagClass := t.diagClass, diagUnrecognized := t.diagUnrecognized }

/-- `t` is `s` but for stack entries at and above `SP`, which are dead (10_state.md R24). -/
def SameButDeadStack (s t : State) : Prop :=
  t = { s with stack := t.stack } ∧ t.stack.length = s.stack.length ∧ t.stack.take s.sp = s.stack.take s.sp

/-- The pixel `(x, y)` is plotted by a sprite of the given bytes with origin `(vx, vy)`: its sprite row and
column, taken modulo 32 and 64, are a row of the sprite and one of its 8 columns, and that bit is set
(43_display.md R181 to R183). -/
def spriteCovers (vx vy : Byte) (bytes : List Byte) (x : Fin 64) (y : Fin 32) : Bool :=
  let col := (x.val + 64 - vx.toNat % 64) % 64
  let row := (y.val + 32 - vy.toNat % 32) % 32
  decide (col < 8) && (match bytes[row]? with | some b => spriteBit b col | none => false)

/-- The pixels an instruction may write: every one by clear-screen (43_display.md R180), those its sprite covers by
draw (R182, R183), none by another. -/
def State.plots (s : State) (px : Fin 64) (py : Fin 32) : Instr → Bool
  | .clearScreen => true
  | .draw x y n => spriteCovers (s.reg x) (s.reg y) (s.readBytes (s.effAddr 0) n) px py
  | .ret | .jump _ | .call _ | .skipEqImm _ _ | .skipNeqImm _ _ | .skipEqReg _ _
  | .loadImm _ _ | .addImm _ _ | .setReg _ _ | .orReg _ _ | .andReg _ _ | .xorReg _ _ | .addReg _ _
  | .subReg _ _ | .shr _ | .subnReg _ _ | .shl _ | .skipNeqReg _ _ | .setIndex _ | .jumpOffset _
  | .random _ _ | .skipIfKey _ | .skipIfNotKey _ | .getDelay _ | .waitForKey _ | .setDelay _
  | .setSound _ | .addIndex _ | .fontChar _ | .bcdStore _ | .regDump _ | .regLoad _ => false

end Sys2Proof.Machine
end

