-- ==== Sys2Proof/Certificates/Slice0/Obligations.lean ====
section
/-! DEFINITION. The statements for the provers, each from the rules of spec/ named in its docstring. In every
statement about `exec`, `s.pc` is the address of the NEXT instruction: the fetch has advanced it
(30_encoding.md R80). -/

open Sys2Proof Sys2Proof.Machine

/-! ### Reset, step, events -/

/-- 70_reset_and_hazards.md R260: what `Reset` leaves, from any state and any parameters, and that no other
event clears a fault. The stack's entries, which 10_state.md R34 leaves unspecified, are not stated. -/
def Obligations.ResetGivesSpecValuesAndAloneClearsFault : Prop :=
  (∀ (s : State) (rest : List HostEvent), ∃ t, step (s.setAgenda (.reset :: rest)) = .next t ∧
    (∀ r, t.reg r = 0) ∧ t.index = 0 ∧ t.pc = 0x200 ∧ t.sp = 0 ∧ t.dt = 0 ∧ t.st = 0 ∧
    (∀ k, t.key k = false) ∧ (∀ x y, t.pixel x y = false) ∧ (∀ a, t.readByte a = s.cfg.memFill) ∧
    t.fault.code = .noFault ∧ t.fault.addr = 0 ∧ t.diagClass = 0 ∧ t.diagUnrecognized = false) ∧
  (∀ s t : State, s.GoneWrong → s.agenda.head? ≠ some .reset → step s = .next t → t.fault = s.fault)

/-- The invariant of Safety.lean holds right after reset, with the default parameters and with any legal ones. -/
def Obligations.InvariantHoldsAfterReset : Prop :=
  State.reset.Inv ∧ ∀ s : State, s.cfg.Legal → s.afterReset.Inv

/-- From every state that meets the invariant, whatever event comes next. The bound on `PC` says that no advance
of `PC` wraps (10_state.md R23); the one on live entries that a popped value is one a call pushed
(40_control.md R111). -/
def Obligations.StepKeepsInvariant : Prop :=
  ∀ s t : State, s.Inv → step s = .next t → t.Inv

/-- 30_encoding.md R80: a `Step` of a running core on a word that is an instruction is the execute phase of that
instruction with `PC` advanced by 2, then the diagnostic outputs unless it faulted. -/
def Obligations.StepRunsDecodedInstruction : Prop :=
  ∀ (s t : State) (w : Word) (i : Instr), s.ReadyToStep → s.HasWordAtPc w → decodeWord w = .ok i →
    exec i (s.setPc (s.pc + 2)) = .next t →
    step s = .next (if t.fault.code = .noFault then { t with diagClass := classOf w, diagUnrecognized := false } else t)

/-- 30_encoding.md R86: a word that is no instruction advances `PC` by 2, is reported, and does nothing else. -/
def Obligations.UnrecognizedWordOnlyAdvancesPc : Prop :=
  ∀ (s : State) (w : Word), s.ReadyToStep → s.HasWordAtPc w → (∀ i, decodeWord w ≠ .ok i) →
    step s = .next { s with pc := s.pc + 2, diagClass := classOf w, diagUnrecognized := true }

/-- 60_exceptions.md R220 row 1, R222: `FetchFault` when `PC` or `PC + 1` is out of range, with `PC` unchanged. -/
def Obligations.FetchOutsideMemoryFaults : Prop :=
  ∀ s : State, s.ReadyToStep → 0xFFE < s.pc.toNat →
    ∃ a : Word, a.toNat = max s.pc.toNat 0x1000 ∧ step s = .next { s with fault := ⟨.fetchFault, a⟩ }

/-- 60_exceptions.md R223: a halted core's `Step` changes nothing, while `Tick` still counts and `KeyWrite` still
writes. -/
def Obligations.HaltedCoreStillCountsAndListens : Prop :=
  ∀ (s : State) (rest : List HostEvent) (k : Key) (b : Bool), s.GoneWrong →
    (s.agenda = [] → step s = .next s) ∧
    step (s.setAgenda (.cycle :: rest)) = .next (s.setAgenda rest) ∧
    (∃ t, step (s.setAgenda (.tick :: rest)) = .next t ∧ t.dt.toNat = s.dt.toNat - 1 ∧
      t.st.toNat = s.st.toNat - 1 ∧ OnlyChanges (s.setAgenda rest) t [] [.dt, .st]) ∧
    (∃ t, step (s.setAgenda (.keyWrite k b :: rest)) = .next t ∧ t.key k = b ∧
      (∀ j, j ≠ k → t.key j = s.key j) ∧ OnlyChanges (s.setAgenda rest) t [] [.keys])

/-- 60_exceptions.md R222: when a `Step` faults, the state is as before the `Step` but for `FAULT`: `PC` holds the
address of the faulting instruction and the diagnostic outputs are the previous cycle's. -/
def Obligations.FaultsArePrecise : Prop :=
  ∀ s t : State, s.ReadyToStep → step s = .next t → t.GoneWrong → t = { s with fault := t.fault }

/-- 60_exceptions.md R223: after a fault and with no `Reset` (and no `Load`, which the host may not issue,
R234), any number of events leaves `FAULT` and everything but the timers and the keys as it was. -/
def Obligations.FaultIsRecordedOnceUntilReset : Prop :=
  ∀ (s t : State) (k : Nat), s.GoneWrong → (∀ e ∈ s.agenda, e ≠ .reset ∧ ∀ bytes, e ≠ .load bytes) →
    core.run k s = .next t → OnlyChanges s t [] [.dt, .st, .keys, .agenda]

/-- The machine never stops: whatever the state and the next event, the step answers a next state (a fault halts
the core but is a state, 60_exceptions.md R223; an over-long `Load` is reported and the host may go on,
70_reset_and_hazards.md R262; that its report is a field of the state is the model's choice, log 5). -/
def Obligations.StepAlwaysAnswersNext : Prop :=
  ∀ s : State, ∃ t, step s = .next t

/-- A host that keeps its duties (60_exceptions.md R234, 70_reset_and_hazards.md R263) never sees a load error,
however long the run (the duties as a predicate are log 6, the report is log 5). -/
def Obligations.HostKeepingProtocolSeesNoLoadError : Prop :=
  ∀ (ph : HostPhase) (s : State), keepsProtocol ph s.agenda = true → s.loadError = false →
    ∀ k, ∃ t, core.run k s = .next t ∧ t.loadError = false

/-- 60_exceptions.md R229: `n` ticks count both timers down by `n`, saturating at 0, and touch nothing else,
whether or not the core is halted. -/
def Obligations.TicksCountDownSaturating : Prop :=
  ∀ (s : State) (n : Nat), s.agenda = List.replicate n .tick →
    ∃ t, core.run n s = .next t ∧ t.dt.toNat = s.dt.toNat - n ∧ t.st.toNat = s.st.toNat - n ∧
      OnlyChanges s t [] [.dt, .st, .agenda]

/-- 60_exceptions.md R231: `KeyWrite(k, b)` sets `KEY[k]` to `b` and nothing else; the core never writes a key. -/
def Obligations.KeyWriteSetsOneKey : Prop :=
  (∀ (s : State) (k : Key) (b : Bool) (rest : List HostEvent),
    ∃ t, step (s.setAgenda (.keyWrite k b :: rest)) = .next t ∧ t.key k = b ∧
      (∀ j, j ≠ k → t.key j = s.key j) ∧ OnlyChanges (s.setAgenda rest) t [] [.keys]) ∧
  ∀ (s : State) (rest : List HostEvent), ∃ t, step (s.setAgenda (.cycle :: rest)) = .next t ∧
    ∀ k, t.key k = s.key k

/-- 70_reset_and_hazards.md R261, R262: `Load` writes the font table and the program and nothing else, or, for a
program of more than 3584 bytes, reports an error and changes nothing else (that the report is a field of the
state is the model's choice, log 5). -/
def Obligations.LoadWritesFontAndProgram : Prop :=
  ∀ (s : State) (bytes : List Byte) (rest : List HostEvent), s.cfg.Legal → s.mem.wf s.cfg.memFill = true →
    (bytes.length ≤ 3584 → ∃ t, step (s.setAgenda (.load bytes :: rest)) = .next t ∧ t.loadError = false ∧
      (∀ j, j < 80 → s.cfg.fontData[j]? = some (t.readByte (s.cfg.fontBase + j))) ∧
      (∀ j, j < bytes.length → bytes[j]? = some (t.readByte (0x200 + j))) ∧
      (∀ a, (a < s.cfg.fontBase ∨ s.cfg.fontBase + 80 ≤ a) → (a < 0x200 ∨ 0x200 + bytes.length ≤ a) →
        t.readByte a = s.readByte a) ∧
      OnlyChanges (s.setAgenda rest) t [] [.mem, .report]) ∧
    (3584 < bytes.length →
      step (s.setAgenda (.load bytes :: rest)) = .next { s with agenda := rest, loadError := true })

/-- 60_exceptions.md R230: the tone output is 1 exactly while `ST > 0`; it rises with set-sound of a non-zero value
and falls when a `Tick` takes `ST` from 1 to 0 or set-sound writes 0. -/
def Obligations.ToneFollowsSoundTimer : Prop :=
  (∀ s : State, s.toneActive = true ↔ 0 < s.st.toNat) ∧
  (∀ (s : State) (x : Reg), ∃ t, exec (.setSound x) s = .next t ∧
    (t.toneActive = true ↔ 0 < (s.reg x).toNat)) ∧
  (∀ (s : State) (rest : List HostEvent), ∃ t, step (s.setAgenda (.tick :: rest)) = .next t ∧
    (s.toneActive = true ∧ t.toneActive = false ↔ s.st.toNat = 1))

/-- The model's own choice (log 7, DESIGN CHOICE), no rule of the spec: `State.withFetchWord`, which stands for the
load of one word, leaves the word at `PC` and a `Step` of a running core as the next event, so that
StepRunsDecodedInstruction speaks of it. -/
def Obligations.PlacedWordIsFetchedNext : Prop :=
  ∀ (s : State) (w : Word), s.mem.wf s.cfg.memFill = true →
    (s.withFetchWord 16 w.toNat).ReadyToStep ∧ (s.withFetchWord 16 w.toNat).HasWordAtPc w

/-! ### Encoding -/

/-- 30_encoding.md R82, R85: decoding the words of a well-formed instruction gives it back, with the bytes that
follow left over, and so does the numbering of the opcode table. -/
def Obligations.DecodeInvertsEncode : Prop :=
  ∀ (i : Instr) (rest : List Byte), i.WellFormed →
    decodeWord (encodeWord i) = .ok i ∧ decode (encode i ++ rest) = .ok (i, rest) ∧
    decodeTableWord 16 (encodeWord i).toNat = some i

/-- 30_encoding.md R87: what is decoded is well-formed, and its word is the one decoded but for ignored bits: the
low nibble of classes 5 and 9, and `Y` of SHR and SHL. -/
def Obligations.DecodedInstructionReencodes : Prop :=
  ∀ (w : Word) (i : Instr), decodeWord w = .ok i → i.WellFormed ∧
    match i with
    | .skipEqReg _ _ | .skipNeqReg _ _ => encodeWord i = w &&& 0xFFF0
    | .shr _ | .shl _ => encodeWord i = w &&& 0xFF0F
    | _ => encodeWord i = w

/-- 30_encoding.md R85: a word decodes to an instruction of a row exactly when it matches the row; a word that
matches none is rejected as unrecognized (R86); no word matches two rows. -/
def Obligations.DecoderAgreesWithOpcodeMap : Prop :=
  (∀ (w : Word) (r : OpRow), r ∈ opcodeMap → (r.accepts w = true ↔ ∃ i, decodeWord w = .ok i ∧ rowOf i = r)) ∧
  (∀ w : Word, (∀ r ∈ opcodeMap, r.accepts w = false) ↔ decodeWord w = .error (.unrecognized w)) ∧
  opcodeMap.Pairwise (fun r r' => ∀ w : Word, ¬ (r.accepts w = true ∧ r'.accepts w = true))

/-- Sanity: words of every family, written out from 30_encoding.md R85 and 95_test_vectors.md 2.1. -/
def Obligations.SampleWordsDecodeToTheirInstructions : Prop :=
  decodeWord 0x00E0 = .ok .clearScreen ∧ decodeWord 0x00EE = .ok .ret ∧ decodeWord 0x1ABC = .ok (.jump 0xABC) ∧
  decodeWord 0x5127 = .ok (.skipEqReg 1 2) ∧ decodeWord 0x6A02 = .ok (.loadImm 10 2) ∧
  decodeWord 0x7A03 = .ok (.addImm 10 3) ∧ decodeWord 0x812E = .ok (.shl 1) ∧ decodeWord 0x81F6 = .ok (.shr 1) ∧
  decodeWord 0xBFFF = .ok (.jumpOffset 0xFFF) ∧ decodeWord 0xD120 = .ok (.draw 1 2 0) ∧
  decodeWord 0xE1A1 = .ok (.skipIfNotKey 1) ∧ decodeWord 0xF10A = .ok (.waitForKey 1) ∧
  decodeWord 0xF165 = .ok (.regLoad 1) ∧ decodeWord 0x8128 = .error (.unrecognized 0x8128) ∧
  decodeWord 0x0000 = .error (.unrecognized 0x0000)

/-! ### Frames of all instructions -/

/-- What each instruction leaves unchanged, for every instruction.
When it completes: every register and part but those the tables of Safety.lean name, so `PC` and `FAULT` too unless
its rule writes `PC`; every byte of memory outside the `i.storedBytes` bytes from the effective address `s.effAddr 0`
its meaning stores to (42_index_memory.md R163, R164; none for a form that stores nothing); every stack entry but
`STACK[SP]` (40_control.md R113); every pixel its sprite does not cover (43_display.md R182; `N` is at most 15).
When it faults, which only the instructions with a `raise` do (60_exceptions.md R220): everything but `PC`, which goes
back, and `FAULT` (R222). -/
def Obligations.EveryInstructionKeepsItsFrame : Prop :=
  ∀ (i : Instr) (s t : State), exec i s = .next t →
    (OnlyChanges s t i.writtenRegs i.writtenParts ∧
      (∀ a, (a < s.effAddr 0 ∨ s.effAddr i.storedBytes ≤ a) → t.readByte a = s.readByte a) ∧
      (∀ j, j ≠ s.sp → t.stack[j]? = s.stack[j]?) ∧
      (i.WellFormed → ∀ px py, s.plots px py i = false → t.pixel px py = s.pixel px py)) ∨
    (i.mayFault = true ∧ t.GoneWrong ∧ OnlyChanges s t [] [.pc, .fault])

/-- 10_state.md R21: VF is 0 or 1 after the six flag instructions, unless they fault, and no other instruction
writes it but as its destination. That set, OR, AND and XOR leave it alone is the spec's decision D16. -/
def Obligations.FlagWrittenOnlyByItsSixInstructions : Prop :=
  ∀ (i : Instr) (s t : State), s.Running → exec i s = .next t →
    (i.setsFlag = true → t.Running → (t.reg VF).toNat ≤ 1) ∧
    (i.setsFlag = false → VF ∉ i.destinations → t.reg VF = s.reg VF)

/-- 10_state.md R25, 60_exceptions.md R227: no instruction reads `ST`: with another value in it, every instruction
does the same to everything else, and `ST` itself is kept or, by set-sound, written alike. -/
def Obligations.NoInstructionReadsSoundTimer : Prop :=
  ∀ (i : Instr) (s t : State) (b : Byte), exec i s = .next t →
    match i with
    | .setSound _ => exec i (s.setSt b) = .next t
    | _ => exec i (s.setSt b) = .next (t.setSt b)

/-- 10_state.md R24: stack entries at and above `SP` cannot be observed: two states that differ only there go on to
states that differ only there, whatever event comes next. -/
def Obligations.DeadStackEntriesCannotBeObserved : Prop :=
  ∀ s s' : State, SameButDeadStack s s' →
    ∀ t, step s = .next t → ∃ t', step s' = .next t' ∧ SameButDeadStack t t'

/-! ### Control transfer (40_control.md) -/

/-- R112: jump. The next fetch faults only for `NNN` = 0xFFF. -/
def Obligations.JumpGoesToItsAddress : Prop :=
  (∀ nnn : Addr12, decodeWord (wordOPA 0x1 nnn) = .ok (.jump nnn)) ∧
  ∀ (s : State) (nnn : Addr12), ∃ t, exec (.jump nnn) s = .next t ∧ t.pc.toNat = nnn.toNat ∧
    OnlyChanges s t [] [.pc] ∧ ((∃ a, fetch t = .error a) ↔ nnn = 0xFFF)

/-- R114 to R117: the four compare-and-skip instructions, with their encodings (the low nibble of classes 5 and 9
ignored). -/
def Obligations.ComparesSkipOneInstruction : Prop :=
  (∀ (x y : Reg) (nn : Byte) (n : Nibble),
    decodeWord (wordOPI 0x3 x nn) = .ok (.skipEqImm x nn) ∧ decodeWord (wordOPI 0x4 x nn) = .ok (.skipNeqImm x nn) ∧
    decodeWord (wordOPR 0x5 x y n) = .ok (.skipEqReg x y) ∧ decodeWord (wordOPR 0x9 x y n) = .ok (.skipNeqReg x y)) ∧
  ∀ (s : State) (x y : Reg) (nn : Byte),
    (∃ t, exec (.skipEqImm x nn) s = .next t ∧ t.pc = (if s.reg x = nn then s.pc + 2 else s.pc) ∧
      OnlyChanges s t [] [.pc]) ∧
    (∃ t, exec (.skipNeqImm x nn) s = .next t ∧ t.pc = (if s.reg x = nn then s.pc else s.pc + 2) ∧
      OnlyChanges s t [] [.pc]) ∧
    (∃ t, exec (.skipEqReg x y) s = .next t ∧ t.pc = (if s.reg x = s.reg y then s.pc + 2 else s.pc) ∧
      OnlyChanges s t [] [.pc]) ∧
    (∃ t, exec (.skipNeqReg x y) s = .next t ∧ t.pc = (if s.reg x = s.reg y then s.pc else s.pc + 2) ∧
      OnlyChanges s t [] [.pc])

/-- R118: jump-offset adds `V[0]`, and the sum is not reduced: above 0xFFE the next fetch faults. -/
def Obligations.JumpOffsetAddsRegisterZero : Prop :=
  (∀ nnn : Addr12, decodeWord (wordOPA 0xB nnn) = .ok (.jumpOffset nnn)) ∧
  ∀ (s : State) (nnn : Addr12), ∃ t, exec (.jumpOffset nnn) s = .next t ∧
    t.pc.toNat = nnn.toNat + (s.reg 0).toNat ∧ OnlyChanges s t [] [.pc] ∧
    ((∃ a, fetch t = .error a) ↔ 0xFFE < nnn.toNat + (s.reg 0).toNat)

/-- R113: call pushes the address after it and jumps, while an entry is free; else `StackOverflow`. -/
def Obligations.CallPushesOrOverflows : Prop :=
  ∀ (s : State) (nnn : Addr12), s.stack.length = s.cfg.stackDepth → s.sp ≤ s.cfg.stackDepth →
    (s.sp < s.cfg.stackDepth → ∃ t, exec (.call nnn) s = .next t ∧ t.pc.toNat = nnn.toNat ∧ t.sp = s.sp + 1 ∧
      t.stack[s.sp]? = some s.pc ∧ (∀ j, j ≠ s.sp → t.stack[j]? = s.stack[j]?) ∧
      OnlyChanges s t [] [.pc, .stack]) ∧
    (s.sp = s.cfg.stackDepth → TakesFault (.call nnn) s .stackOverflow 0)

/-- R111: return pops the newest entry into `PC`; on an empty stack `StackUnderflow`. -/
def Obligations.ReturnPopsOrUnderflows : Prop :=
  ∀ s : State, s.stack.length = s.cfg.stackDepth → s.sp ≤ s.cfg.stackDepth →
    (0 < s.sp → ∃ t, exec .ret s = .next t ∧ s.stack[s.sp - 1]? = some t.pc ∧ t.sp = s.sp - 1 ∧
      t.stack = s.stack ∧ OnlyChanges s t [] [.pc, .stack]) ∧
    (s.sp = 0 → TakesFault .ret s .stackUnderflow 0)

/-- R111, R113: after a call, whatever happens in between that leaves the live entries as the call left them (calls
and returns of the subroutine's own included: they overwrite dead entries only), the return resumes at the instruction
after the call with the live entries as before the call. -/
def Obligations.ReturnResumesAfterItsCall : Prop :=
  ∀ (s t u : State) (nnn : Addr12), s.stack.length = s.cfg.stackDepth → s.sp < s.cfg.stackDepth →
    exec (.call nnn) s = .next t → u.sp = t.sp →
    u.stack.length = t.stack.length → u.stack.take u.sp = t.stack.take t.sp →
    ∃ r, exec .ret u = .next r ∧ r.pc = s.pc ∧ r.sp = s.sp ∧ r.stack.take r.sp = s.stack.take s.sp ∧
      OnlyChanges u r [] [.pc, .stack]

/-- 70_reset_and_hazards.md R272 (its suggested end of a run, D28): from a jump to itself no number of `Step`s
changes anything but the diagnostic outputs. -/
def Obligations.FinishedStateStaysPut : Prop :=
  ∀ (s : State) (k : Nat), s.Finished → s.agenda = [] → ∃ t, core.run k s = .next t ∧ SameButDiag s t

/-! ### Immediate, ALU, random (41_alu.md) -/

/-- R132, R133: load-imm and add-imm, with their encodings; no flag. -/
def Obligations.ImmediatesLoadAndAddWithoutFlag : Prop :=
  (∀ (x : Reg) (nn : Byte), decodeWord (wordOPI 0x6 x nn) = .ok (.loadImm x nn) ∧
    decodeWord (wordOPI 0x7 x nn) = .ok (.addImm x nn)) ∧
  ∀ (s : State) (x : Reg) (nn : Byte),
    (∃ t, exec (.loadImm x nn) s = .next t ∧ t.reg x = nn ∧ OnlyChanges s t [x] []) ∧
    (∃ t, exec (.addImm x nn) s = .next t ∧ (t.reg x).toNat = ((s.reg x).toNat + nn.toNat) % 256 ∧
      OnlyChanges s t [x] [])

/-- R134 to R137: set, OR, AND, XOR, bit by bit; VF is written only as the destination (decision D16). -/
def Obligations.LogicWritesOnlyItsDestination : Prop :=
  ∀ (s : State) (x y : Reg),
    (∃ t, exec (.setReg x y) s = .next t ∧ t.reg x = s.reg y ∧ OnlyChanges s t [x] []) ∧
    (∃ t, exec (.orReg x y) s = .next t ∧
      (∀ j, (t.reg x).getLsbD j = ((s.reg x).getLsbD j || (s.reg y).getLsbD j)) ∧ OnlyChanges s t [x] []) ∧
    (∃ t, exec (.andReg x y) s = .next t ∧
      (∀ j, (t.reg x).getLsbD j = ((s.reg x).getLsbD j && (s.reg y).getLsbD j)) ∧ OnlyChanges s t [x] []) ∧
    (∃ t, exec (.xorReg x y) s = .next t ∧
      (∀ j, (t.reg x).getLsbD j = ((s.reg x).getLsbD j ^^ (s.reg y).getLsbD j)) ∧ OnlyChanges s t [x] [])

/-- R130, R138, R139: ADD and SUB of the old operands; VF is the carry, NOT borrow, written last, so that with
`X` = 15 the result is lost. -/
def Obligations.AddAndSubSetResultThenFlag : Prop :=
  (∀ x y : Reg, decodeWord (wordOPR 0x8 x y 0x4) = .ok (.addReg x y) ∧
    decodeWord (wordOPR 0x8 x y 0x5) = .ok (.subReg x y)) ∧
  ∀ (s : State) (x y : Reg) (a b : Nat), a = (s.reg x).toNat → b = (s.reg y).toNat →
    (∃ t, exec (.addReg x y) s = .next t ∧ (x ≠ VF → (t.reg x).toNat = (a + b) % 256) ∧
      (t.reg VF).toNat = (if a + b > 255 then 1 else 0) ∧ OnlyChanges s t [x, VF] []) ∧
    (∃ t, exec (.subReg x y) s = .next t ∧
      (x ≠ VF → (t.reg x).toNat = (if a ≥ b then a - b else a + 256 - b)) ∧
      (t.reg VF).toNat = (if a ≥ b then 1 else 0) ∧ OnlyChanges s t [x, VF] [])

/-- R141: SUBN is `V[Y] - V[X]` with NOT borrow (the spec marks the flag's condition as derived). -/
def Obligations.SubnReversesTheOperands : Prop :=
  (∀ x y : Reg, decodeWord (wordOPR 0x8 x y 0x7) = .ok (.subnReg x y)) ∧
  ∀ (s : State) (x y : Reg) (a b : Nat), a = (s.reg x).toNat → b = (s.reg y).toNat →
    ∃ t, exec (.subnReg x y) s = .next t ∧
      (x ≠ VF → (t.reg x).toNat = (if b ≥ a then b - a else b + 256 - a)) ∧
      (t.reg VF).toNat = (if b ≥ a then 1 else 0) ∧ OnlyChanges s t [x, VF] []

/-- R140, R142: SHR and SHL of register X itself by one, with `Y` ignored; VF is the old bit shifted out. -/
def Obligations.ShiftsEvictOneBitIntoFlag : Prop :=
  (∀ x y : Reg, decodeWord (wordOPR 0x8 x y 0x6) = .ok (.shr x) ∧ decodeWord (wordOPR 0x8 x y 0xE) = .ok (.shl x)) ∧
  ∀ (s : State) (x : Reg),
    (∃ t, exec (.shr x) s = .next t ∧ (x ≠ VF → (t.reg x).toNat = (s.reg x).toNat / 2) ∧
      (t.reg VF).toNat = (s.reg x).toNat % 2 ∧ OnlyChanges s t [x, VF] []) ∧
    (∃ t, exec (.shl x) s = .next t ∧ (x ≠ VF → (t.reg x).toNat = (s.reg x).toNat * 2 % 256) ∧
      (t.reg VF).toNat = (s.reg x).toNat / 128 ∧ OnlyChanges s t [x, VF] [])

/-- R143 (decision D21): random writes the input byte masked by `NN`; the byte is the free value at the number of
bytes sampled so far, which grows by one (log 3), so this holds for every value of the input. -/
def Obligations.RandomMasksTheInputByte : Prop :=
  ∀ (s : State) (x : Reg) (nn : Byte), ∃ t, exec (.random x nn) s = .next t ∧
    t.reg x = Config.rndInput s.draws &&& nn ∧ (∀ j, nn.getLsbD j = false → (t.reg x).getLsbD j = false) ∧
    t.draws = s.draws + 1 ∧ OnlyChanges s t [x] [.draws]

/-! ### Index register and memory (42_index_memory.md) -/

/-- R160, R161: set-index and add-index, with their encodings; no flag. -/
def Obligations.IndexIsSetAndAddedModulo : Prop :=
  (∀ (nnn : Addr12) (x : Reg), decodeWord (wordOPA 0xA nnn) = .ok (.setIndex nnn) ∧
    decodeWord (wordOPI 0xF x 0x1E) = .ok (.addIndex x)) ∧
  ∀ (s : State) (nnn : Addr12) (x : Reg),
    (∃ t, exec (.setIndex nnn) s = .next t ∧ t.index.toNat = nnn.toNat ∧ OnlyChanges s t [] [.index]) ∧
    (∃ t, exec (.addIndex x) s = .next t ∧ t.index.toNat = (s.index.toNat + (s.reg x).toNat) % 65536 ∧
      OnlyChanges s t [] [.index])

/-- R162 (decision D20): font-char is `FONT_BASE + 5 * V[X]` for all 8 bits of `V[X]`, always an in-range address. -/
def Obligations.FontCharIndexesByFive : Prop :=
  ∀ (s : State) (x : Reg), s.cfg.Legal → ∃ t, exec (.fontChar x) s = .next t ∧
    t.index.toNat = s.cfg.fontBase + 5 * (s.reg x).toNat ∧ t.index.toNat ≤ 0xFFF ∧ OnlyChanges s t [] [.index]

/-- R162, 20_memory.md R51, R53: after a successful `Load`, font-char of a digit 0 to 15 points `I` at the 5 bytes of
its glyph in FONT_DATA. -/
def Obligations.FontCharPointsAtLoadedGlyph : Prop :=
  ∀ (s t : State) (bytes : List Byte) (rest : List HostEvent) (x : Reg), s.cfg.Legal →
    s.mem.wf s.cfg.memFill = true → step (s.setAgenda (.load bytes :: rest)) = .next t →
    t.loadError = false → (s.reg x).toNat ≤ 15 → ∃ u, exec (.fontChar x) t = .next u ∧
      ∀ j, j < 5 → s.cfg.fontData[5 * (s.reg x).toNat + j]? = some (u.readByte (u.index.toNat + j))

/-- R163: bcd-store writes the hundreds, tens and units digits at `I`, `I + 1`, `I + 2` and nothing else; with any of
the three out of range it faults and writes nothing. -/
def Obligations.BcdStoreWritesThreeDigits : Prop :=
  (∀ x : Reg, decodeWord (wordOPI 0xF x 0x33) = .ok (.bcdStore x)) ∧
  ∀ (s : State) (x : Reg), s.mem.wf s.cfg.memFill = true →
    (s.index.toNat ≤ 0xFFD → ∃ t, exec (.bcdStore x) s = .next t ∧
      100 * (t.readByte s.index.toNat).toNat + 10 * (t.readByte (s.index.toNat + 1)).toNat +
        (t.readByte (s.index.toNat + 2)).toNat = (s.reg x).toNat ∧
      (t.readByte s.index.toNat).toNat ≤ 2 ∧ (t.readByte (s.index.toNat + 1)).toNat ≤ 9 ∧
      (t.readByte (s.index.toNat + 2)).toNat ≤ 9 ∧
      (∀ a, (a < s.index.toNat ∨ s.index.toNat + 3 ≤ a) → t.readByte a = s.readByte a) ∧
      OnlyChanges s t [] [.mem]) ∧
    (0xFFD < s.index.toNat → ∃ a : Word, a.toNat = max s.index.toNat 0x1000 ∧
      TakesFault (.bcdStore x) s .storeFault a)

/-- R164: reg-dump stores `V[0]` to `V[X]` at `I` up and nothing else; else it faults and writes nothing. -/
def Obligations.RegDumpStoresTheBlock : Prop :=
  (∀ x : Reg, decodeWord (wordOPI 0xF x 0x55) = .ok (.regDump x)) ∧
  ∀ (s : State) (x : Reg), s.mem.wf s.cfg.memFill = true →
    (s.index.toNat + x.val ≤ 0xFFF → ∃ t, exec (.regDump x) s = .next t ∧
      (∀ r : Reg, r ≤ x → t.readByte (s.index.toNat + r.val) = s.reg r) ∧
      (∀ a, (a < s.index.toNat ∨ s.index.toNat + x.val < a) → t.readByte a = s.readByte a) ∧
      OnlyChanges s t [] [.mem]) ∧
    (0xFFF < s.index.toNat + x.val → ∃ a : Word, a.toNat = max s.index.toNat 0x1000 ∧
      TakesFault (.regDump x) s .storeFault a)

/-- R165: reg-load loads `V[0]` to `V[X]` from `I` up; registers above `X` and `I` are unchanged; else it faults and
no register is written. -/
def Obligations.RegLoadLoadsTheBlock : Prop :=
  (∀ x : Reg, decodeWord (wordOPI 0xF x 0x65) = .ok (.regLoad x)) ∧
  ∀ (s : State) (x : Reg),
    (s.index.toNat + x.val ≤ 0xFFF → ∃ t, exec (.regLoad x) s = .next t ∧
      (∀ r : Reg, r ≤ x → t.reg r = s.readByte (s.index.toNat + r.val)) ∧ (∀ r : Reg, x < r → t.reg r = s.reg r) ∧
      (∀ p : Part, p.same s t)) ∧
    (0xFFF < s.index.toNat + x.val → ∃ a : Word, a.toNat = max s.index.toNat 0x1000 ∧
      TakesFault (.regLoad x) s .loadFault a)

/-- R164, R165: a dump is undone by a load: with `I` and the memory as the dump left them, and any registers, the
load brings `V[0]` to `V[X]` back. -/
def Obligations.LoadBringsDumpedRegistersBack : Prop :=
  ∀ (s t u : State) (x : Reg), s.mem.wf s.cfg.memFill = true → s.index.toNat + x.val ≤ 0xFFF →
    exec (.regDump x) s = .next t → u.index = s.index → (∀ a, u.readByte a = t.readByte a) →
    ∃ r, exec (.regLoad x) u = .next r ∧ (∀ j : Reg, j ≤ x → r.reg j = s.reg j) ∧
      (∀ j : Reg, x < j → r.reg j = u.reg j)

/-- 20_memory.md R56, R63: bytes stored by reg-dump are seen by the very next fetch that covers them, big-endian: the
byte of the lower-numbered register is the high byte of the word. -/
def Obligations.StoredBytesAreFetchedAtOnce : Prop :=
  ∀ (s t : State) (x k : Reg) (h : k.val + 1 ≤ x.val), s.mem.wf s.cfg.memFill = true →
    s.index.toNat + x.val ≤ 0xFFF → exec (.regDump x) s = .next t →
    ∃ w, fetch (t.setPc (s.index + BitVec.ofNat 16 k.val)) = .ok w ∧
      w.toNat = (s.reg k).toNat * 256 + (s.reg ⟨k.val + 1, by omega⟩).toNat

/-! ### Display (43_display.md) -/

/-- R180: clear-screen. -/
def Obligations.ClearScreenBlanksEveryPixel : Prop :=
  (∀ w : Word, decodeWord w = .ok .clearScreen ↔ w = 0x00E0) ∧
  ∀ s : State, ∃ t, exec .clearScreen s = .next t ∧ (∀ x y, t.pixel x y = false) ∧ OnlyChanges s t [] [.fb]

/-- R181 to R183 (with the spec's decisions D17 to D19 and its bit order, log 11): draw turns over exactly the
pixels its sprite covers, modulo 64 and 32; VF is 1 when a covered pixel was 1, else 0; nothing else changes. When
the last sprite byte is out of range it faults; with `N` = 0 it never does. -/
def Obligations.DrawXorsTheSpriteAndFlagsCollision : Prop :=
  ∀ (s : State) (x y : Reg) (n : Nat), n ≤ 15 →
    (n = 0 ∨ s.index.toNat + n ≤ 0x1000 → ∃ t, exec (.draw x y n) s = .next t ∧
      (∀ px py, t.pixel px py =
        (s.pixel px py ^^ spriteCovers (s.reg x) (s.reg y) (s.readBytes s.index.toNat n) px py)) ∧
      ((t.reg VF).toNat = 1 ↔ ∃ px py, s.pixel px py = true ∧
        spriteCovers (s.reg x) (s.reg y) (s.readBytes s.index.toNat n) px py = true) ∧
      (t.reg VF).toNat ≤ 1 ∧ OnlyChanges s t [VF] [.fb]) ∧
    (0 < n → 0x1000 < s.index.toNat + n → ∃ a : Word, a.toNat = max s.index.toNat 0x1000 ∧
      TakesFault (.draw x y n) s .loadFault a)

/-- R183, the source's S5: the identical sprite drawn twice restores the display; the second draw collides exactly
when some plotted pixel was 0 before the first. The coordinates are the same when neither register is VF. -/
def Obligations.DrawTwiceRestoresTheDisplay : Prop :=
  ∀ (s t : State) (x y : Reg) (n : Nat), n ≤ 15 → x ≠ VF → y ≠ VF → (n = 0 ∨ s.index.toNat + n ≤ 0x1000) →
    exec (.draw x y n) s = .next t →
    ∃ u, exec (.draw x y n) t = .next u ∧ OnlyChanges s u [VF] [] ∧
      ((u.reg VF).toNat = 1 ↔ ∃ px py, s.pixel px py = false ∧
        spriteCovers (s.reg x) (s.reg y) (s.readBytes s.index.toNat n) px py = true)

/-! ### Keys and timers (44_keys_timers.md) -/

/-- R200, R201 (decision D7): the two skips on a key, and `KeyIndexFault` with the index when `V[X]` is above 15. -/
def Obligations.KeySkipsTestTheLatch : Prop :=
  ∀ (s : State) (x : Reg),
    (∀ k : Key, (s.reg x).toNat = k.val →
      (∃ t, exec (.skipIfKey x) s = .next t ∧ t.pc = (if s.key k = true then s.pc + 2 else s.pc) ∧
        OnlyChanges s t [] [.pc]) ∧
      (∃ t, exec (.skipIfNotKey x) s = .next t ∧ t.pc = (if s.key k = true then s.pc else s.pc + 2) ∧
        OnlyChanges s t [] [.pc])) ∧
    (15 < (s.reg x).toNat → ∃ a : Word, a.toNat = (s.reg x).toNat ∧
      TakesFault (.skipIfKey x) s .keyIndexFault a ∧ TakesFault (.skipIfNotKey x) s .keyIndexFault a)

/-- R202: with a key pressed, wait-for-key writes the lowest pressed key's index; with none, `PC` goes back to it and
nothing else changes. -/
def Obligations.WaitForKeyTakesLowestOrRewinds : Prop :=
  (∀ x : Reg, decodeWord (wordOPI 0xF x 0x0A) = .ok (.waitForKey x)) ∧
  ∀ (s : State) (x : Reg),
    (∀ k : Key, s.key k = true → (∀ j < k, s.key j = false) →
      ∃ t, exec (.waitForKey x) s = .next t ∧ (t.reg x).toNat = k.val ∧ OnlyChanges s t [x] []) ∧
    ((∀ k, s.key k = false) → ∃ t, exec (.waitForKey x) s = .next t ∧ t.pc = s.pc - 2 ∧ OnlyChanges s t [] [.pc])

/-- R202, the source's S8: with no key pressed any number of `Step`s at a wait-for-key leaves everything but the
diagnostic outputs as it was; after a `KeyWrite` the next `Step` takes the key and goes on. -/
def Obligations.PollingLeavesStateUntilAKey : Prop :=
  ∀ (s : State) (w : Word) (x : Reg) (n : Nat) (k : Key), s.Running → s.HasWordAtPc w →
    decodeWord w = .ok (.waitForKey x) → (∀ j, s.key j = false) →
    (s.agenda = List.replicate n .cycle → ∃ t, core.run n s = .next t ∧
      SameButDiag (s.setAgenda []) t) ∧
    (s.agenda = List.replicate n .cycle ++ [.keyWrite k true, .cycle] → ∃ t, core.run (n + 2) s = .next t ∧
      (t.reg x).toNat = k.val ∧ t.pc = s.pc + 2 ∧ OnlyChanges s t [x] [.pc, .keys, .diag, .agenda])

/-- R203, R204, and the effect R205 gives set-sound: the timer instructions, with their encodings. -/
def Obligations.TimersAreReadAndWritten : Prop :=
  (∀ x : Reg, decodeWord (wordOPI 0xF x 0x07) = .ok (.getDelay x) ∧
    decodeWord (wordOPI 0xF x 0x15) = .ok (.setDelay x) ∧ decodeWord (wordOPI 0xF x 0x18) = .ok (.setSound x)) ∧
  ∀ (s : State) (x : Reg),
    (∃ t, exec (.getDelay x) s = .next t ∧ t.reg x = s.dt ∧ OnlyChanges s t [x] []) ∧
    (∃ t, exec (.setDelay x) s = .next t ∧ t.dt = s.reg x ∧ OnlyChanges s t [] [.dt]) ∧
    (∃ t, exec (.setSound x) s = .next t ∧ t.st = s.reg x ∧ (t.toneActive = true ↔ 0 < (s.reg x).toNat) ∧
      OnlyChanges s t [] [.st])

/-! ### The host's duties, step by step -/

/-- 60_exceptions.md R234, 70_reset_and_hazards.md R262, R263 (the duties as a predicate are log 6, the report is
log 5): from every state whose coming events keep the host's duties with no load error reported, whatever the next
event, the next state is such a state again. And while the `Load` is still awaited no instruction runs: but for a
`Reset`, a step changes at most the memory, the report, the timers and the keys. -/
def Obligations.StepKeepsHostDuties : Prop :=
  (∀ s t : State, s.HostKeepsDuties → step s = .next t → t.HostKeepsDuties) ∧
  (∀ s t : State, keepsProtocol .awaitLoad s.agenda = true → s.agenda.head? ≠ some .reset → step s = .next t →
    OnlyChanges s t [] [.mem, .report, .dt, .st, .keys, .agenda])
end

