-- ==== Sys2Proof/Laws/Decode.lean ====
section
/-! SUPPORT. The fields of a word of each format (30_encoding.md R81, R82), and the word as a number. -/

namespace Sys2Proof

theorem toNat_append_mul {n m : Nat} (a : BitVec n) (b : BitVec m) :
    (a ++ b).toNat = a.toNat * 2 ^ m + b.toNat := by
  rw [BitVec.toNat_append, Nat.shiftLeft_eq, Nat.mul_comm, ← Nat.two_pow_add_eq_or_of_lt b.isLt]

@[simp] theorem regField_toNat (x : Reg) : (regField x).toNat = x.val := rfl
@[simp] theorem regField_toFin (x : Reg) : (regField x).toFin = x := rfl

/-! ### The numbers -/

theorem wordOPR_toNat (c n : Nibble) (x y : Reg) :
    (wordOPR c x y n).toNat = c.toNat * 4096 + x.val * 256 + y.val * 16 + n.toNat := by
  simp only [wordOPR, toNat_append_mul, regField_toNat]; omega

theorem wordOPI_toNat (c : Nibble) (x : Reg) (nn : Byte) :
    (wordOPI c x nn).toNat = c.toNat * 4096 + x.val * 256 + nn.toNat := by
  simp only [wordOPI, toNat_append_mul, regField_toNat]; omega

theorem wordOPA_toNat (c : Nibble) (nnn : Addr12) : (wordOPA c nnn).toNat = c.toNat * 4096 + nnn.toNat := by
  simp only [wordOPA, toNat_append_mul]; omega

theorem classOf_toNat (w : Word) : (classOf w).toNat = w.toNat / 4096 := by
  have := w.isLt
  simp only [classOf, BitVec.extractLsb'_toNat, Nat.shiftRight_eq_div_pow]; omega

theorem fieldX_val (w : Word) : (fieldX w).val = w.toNat / 256 % 16 := by
  simp [fieldX, Nat.shiftRight_eq_div_pow]

theorem fieldY_val (w : Word) : (fieldY w).val = w.toNat / 16 % 16 := by
  simp [fieldY, Nat.shiftRight_eq_div_pow]

theorem fieldN_toNat (w : Word) : (fieldN w).toNat = w.toNat % 16 := by simp [fieldN, BitVec.extractLsb'_toNat]
theorem fieldNN_toNat (w : Word) : (fieldNN w).toNat = w.toNat % 256 := by simp [fieldNN, BitVec.extractLsb'_toNat]
theorem fieldNNN_toNat (w : Word) : (fieldNNN w).toNat = w.toNat % 4096 := by
  simp [fieldNNN, BitVec.extractLsb'_toNat]

/-! ### The fields of format OPR -/

section
variable (c n : Nibble) (x y : Reg)

@[simp] theorem classOf_wordOPR : classOf (wordOPR c x y n) = c := by
  apply BitVec.eq_of_toNat_eq; have := c.isLt; have := n.isLt; rw [classOf_toNat, wordOPR_toNat]; omega
@[simp] theorem fieldX_wordOPR : fieldX (wordOPR c x y n) = x := by
  apply Fin.ext; have := n.isLt; rw [fieldX_val, wordOPR_toNat]; omega
@[simp] theorem fieldY_wordOPR : fieldY (wordOPR c x y n) = y := by
  apply Fin.ext; have := n.isLt; rw [fieldY_val, wordOPR_toNat]; omega
@[simp] theorem fieldN_wordOPR : fieldN (wordOPR c x y n) = n := by
  apply BitVec.eq_of_toNat_eq; have := n.isLt; rw [fieldN_toNat, wordOPR_toNat]; omega
end

/-! ### The fields of format OPI -/

section
variable (c : Nibble) (x : Reg) (nn : Byte)

@[simp] theorem classOf_wordOPI : classOf (wordOPI c x nn) = c := by
  apply BitVec.eq_of_toNat_eq; have := c.isLt; have := nn.isLt; rw [classOf_toNat, wordOPI_toNat]; omega
@[simp] theorem fieldX_wordOPI : fieldX (wordOPI c x nn) = x := by
  apply Fin.ext; have := nn.isLt; rw [fieldX_val, wordOPI_toNat]; omega
@[simp] theorem fieldNN_wordOPI : fieldNN (wordOPI c x nn) = nn := by
  apply BitVec.eq_of_toNat_eq; have := nn.isLt; rw [fieldNN_toNat, wordOPI_toNat]; omega
end

/-! ### The fields of format OPA -/

section
variable (c : Nibble) (nnn : Addr12)

@[simp] theorem classOf_wordOPA : classOf (wordOPA c nnn) = c := by
  apply BitVec.eq_of_toNat_eq; have := c.isLt; have := nnn.isLt; rw [classOf_toNat, wordOPA_toNat]; omega
@[simp] theorem fieldNNN_wordOPA : fieldNNN (wordOPA c nnn) = nnn := by
  apply BitVec.eq_of_toNat_eq; have := nnn.isLt; rw [fieldNNN_toNat, wordOPA_toNat]; omega
end

/-! ### Bytes -/

theorem wordOfBytes_toNat (hi lo : Byte) : (wordOfBytes hi lo).toNat = hi.toNat * 256 + lo.toNat :=
  toNat_append_mul hi lo

/-- The two bytes of a word, big-endian, give the word back (20_memory.md R56). -/
@[simp] theorem wordOfBytes_bytes (w : Word) : wordOfBytes (w.extractLsb' 8 8) (w.extractLsb' 0 8) = w := by
  apply BitVec.eq_of_toNat_eq
  have := w.isLt
  rw [wordOfBytes_toNat]
  simp only [BitVec.extractLsb'_toNat, Nat.shiftRight_eq_div_pow]; omega

/-- Decoding bytes is decoding the big-endian word of the first two. -/
theorem decode_bytesOfWord (w : Word) (rest : List Byte) :
    decode (bytesOfWord w ++ rest) = (decodeWord w).map (fun i => (i, rest)) := by
  simp only [bytesOfWord, List.cons_append, List.nil_append, decode, wordOfBytes_bytes]
  cases decodeWord w <;> rfl

/-- A word is the OPR word of its fields, the OPI word of its fields, and the OPA word of its fields. -/
theorem wordOPR_fields (w : Word) : wordOPR (classOf w) (fieldX w) (fieldY w) (fieldN w) = w := by
  apply BitVec.eq_of_toNat_eq; have := w.isLt
  rw [wordOPR_toNat, classOf_toNat, fieldX_val, fieldY_val, fieldN_toNat]; omega
theorem wordOPI_fields (w : Word) : wordOPI (classOf w) (fieldX w) (fieldNN w) = w := by
  apply BitVec.eq_of_toNat_eq; have := w.isLt
  rw [wordOPI_toNat, classOf_toNat, fieldX_val, fieldNN_toNat]; omega
theorem wordOPA_fields (w : Word) : wordOPA (classOf w) (fieldNNN w) = w := by
  apply BitVec.eq_of_toNat_eq; have := w.isLt
  rw [wordOPA_toNat, classOf_toNat, fieldNNN_toNat]; omega

/-! ### Masks of the opcode map -/

/-- Matching on the class. -/
theorem and_F000 (w : Word) (c : Nibble) : w &&& 0xF000#16 = wordOPA c 0 ↔ classOf w = c := by
  have key : w &&& 0xF000#16 = wordOPA (classOf w) 0 := by
    apply BitVec.eq_of_getLsbD_eq
    intro i hi
    simp only [wordOPA, classOf, BitVec.getLsbD_append, BitVec.getLsbD_and, BitVec.getLsbD_extractLsb']
    interval_cases i <;> simp
  rw [key]
  exact ⟨fun h => by simpa using congrArg classOf h, fun h => by rw [h]⟩

/-- Matching on the class and `N`. -/
theorem and_F00F (w : Word) (c n : Nibble) :
    w &&& 0xF00F#16 = wordOPR c 0 0 n ↔ classOf w = c ∧ fieldN w = n := by
  have key : w &&& 0xF00F#16 = wordOPR (classOf w) 0 0 (fieldN w) := by
    apply BitVec.eq_of_getLsbD_eq
    intro i hi
    simp only [wordOPR, regField, classOf, fieldN, BitVec.getLsbD_append, BitVec.getLsbD_and,
      BitVec.getLsbD_extractLsb']
    interval_cases i <;> simp
  rw [key]
  exact ⟨fun h => ⟨by simpa using congrArg classOf h, by simpa using congrArg fieldN h⟩,
    fun h => by rw [h.1, h.2]⟩

/-- Matching on the class and `NN`. -/
theorem and_F0FF (w : Word) (c : Nibble) (nn : Byte) :
    w &&& 0xF0FF#16 = wordOPI c 0 nn ↔ classOf w = c ∧ fieldNN w = nn := by
  have key : w &&& 0xF0FF#16 = wordOPI (classOf w) 0 (fieldNN w) := by
    apply BitVec.eq_of_getLsbD_eq
    intro i hi
    simp only [wordOPI, regField, classOf, fieldNN, BitVec.getLsbD_append, BitVec.getLsbD_and,
      BitVec.getLsbD_extractLsb']
    interval_cases i <;> simp
  rw [key]
  exact ⟨fun h => ⟨by simpa using congrArg classOf h, by simpa using congrArg fieldNN h⟩,
    fun h => by rw [h.1, h.2]⟩

end Sys2Proof
end

