-- ==== Sys2Proof/Laws/State.lean ====
section
/-! SUPPORT. For every update of a state and every field, what the field is after the update: one lemma
each, true by rfl, so that no later proof unfolds a record update. Then the same for the reads through
accessors. -/

namespace Sys2Proof.Machine.State

variable (s : State)

/-! ### setReg -/

@[simp] theorem setReg_v (x : Reg) (b : Byte) : (s.setReg x b).v = s.v.set x.val b := rfl
@[simp] theorem setReg_index (x : Reg) (b : Byte) : (s.setReg x b).index = s.index := rfl
@[simp] theorem setReg_pc (x : Reg) (b : Byte) : (s.setReg x b).pc = s.pc := rfl
@[simp] theorem setReg_sp (x : Reg) (b : Byte) : (s.setReg x b).sp = s.sp := rfl
@[simp] theorem setReg_stack (x : Reg) (b : Byte) : (s.setReg x b).stack = s.stack := rfl
@[simp] theorem setReg_dt (x : Reg) (b : Byte) : (s.setReg x b).dt = s.dt := rfl
@[simp] theorem setReg_st (x : Reg) (b : Byte) : (s.setReg x b).st = s.st := rfl
@[simp] theorem setReg_keys (x : Reg) (b : Byte) : (s.setReg x b).keys = s.keys := rfl
@[simp] theorem setReg_fb (x : Reg) (b : Byte) : (s.setReg x b).fb = s.fb := rfl
@[simp] theorem setReg_mem (x : Reg) (b : Byte) : (s.setReg x b).mem = s.mem := rfl
@[simp] theorem setReg_fault (x : Reg) (b : Byte) : (s.setReg x b).fault = s.fault := rfl
@[simp] theorem setReg_diagClass (x : Reg) (b : Byte) : (s.setReg x b).diagClass = s.diagClass := rfl
@[simp] theorem setReg_diagUnrecognized (x : Reg) (b : Byte) : (s.setReg x b).diagUnrecognized = s.diagUnrecognized := rfl
@[simp] theorem setReg_loadError (x : Reg) (b : Byte) : (s.setReg x b).loadError = s.loadError := rfl
@[simp] theorem setReg_cfg (x : Reg) (b : Byte) : (s.setReg x b).cfg = s.cfg := rfl
@[simp] theorem setReg_draws (x : Reg) (b : Byte) : (s.setReg x b).draws = s.draws := rfl
@[simp] theorem setReg_agenda (x : Reg) (b : Byte) : (s.setReg x b).agenda = s.agenda := rfl

@[simp] theorem setReg_key (x : Reg) (b : Byte) (j : Key) : (s.setReg x b).key j = s.key j := rfl
@[simp] theorem setReg_pixel (x : Reg) (b : Byte) (px : Fin 64) (py : Fin 32) : (s.setReg x b).pixel px py = s.pixel px py := rfl
@[simp] theorem setReg_readByte (x : Reg) (b : Byte) (i : Nat) : (s.setReg x b).readByte i = s.readByte i := rfl
@[simp] theorem setReg_halted (x : Reg) (b : Byte) : (s.setReg x b).halted = s.halted := rfl
@[simp] theorem setReg_effAddr (x : Reg) (b : Byte) (i : Nat) : (s.setReg x b).effAddr i = s.effAddr i := rfl

/-! ### setIndex -/

@[simp] theorem setIndex_v (w : Word) : (s.setIndex w).v = s.v := rfl
@[simp] theorem setIndex_index (w : Word) : (s.setIndex w).index = w := rfl
@[simp] theorem setIndex_pc (w : Word) : (s.setIndex w).pc = s.pc := rfl
@[simp] theorem setIndex_sp (w : Word) : (s.setIndex w).sp = s.sp := rfl
@[simp] theorem setIndex_stack (w : Word) : (s.setIndex w).stack = s.stack := rfl
@[simp] theorem setIndex_dt (w : Word) : (s.setIndex w).dt = s.dt := rfl
@[simp] theorem setIndex_st (w : Word) : (s.setIndex w).st = s.st := rfl
@[simp] theorem setIndex_keys (w : Word) : (s.setIndex w).keys = s.keys := rfl
@[simp] theorem setIndex_fb (w : Word) : (s.setIndex w).fb = s.fb := rfl
@[simp] theorem setIndex_mem (w : Word) : (s.setIndex w).mem = s.mem := rfl
@[simp] theorem setIndex_fault (w : Word) : (s.setIndex w).fault = s.fault := rfl
@[simp] theorem setIndex_diagClass (w : Word) : (s.setIndex w).diagClass = s.diagClass := rfl
@[simp] theorem setIndex_diagUnrecognized (w : Word) : (s.setIndex w).diagUnrecognized = s.diagUnrecognized := rfl
@[simp] theorem setIndex_loadError (w : Word) : (s.setIndex w).loadError = s.loadError := rfl
@[simp] theorem setIndex_cfg (w : Word) : (s.setIndex w).cfg = s.cfg := rfl
@[simp] theorem setIndex_draws (w : Word) : (s.setIndex w).draws = s.draws := rfl
@[simp] theorem setIndex_agenda (w : Word) : (s.setIndex w).agenda = s.agenda := rfl

@[simp] theorem setIndex_reg (w : Word) (r : Reg) : (s.setIndex w).reg r = s.reg r := rfl
@[simp] theorem setIndex_key (w : Word) (j : Key) : (s.setIndex w).key j = s.key j := rfl
@[simp] theorem setIndex_pixel (w : Word) (px : Fin 64) (py : Fin 32) : (s.setIndex w).pixel px py = s.pixel px py := rfl
@[simp] theorem setIndex_readByte (w : Word) (i : Nat) : (s.setIndex w).readByte i = s.readByte i := rfl
@[simp] theorem setIndex_halted (w : Word) : (s.setIndex w).halted = s.halted := rfl

/-! ### setDt -/

@[simp] theorem setDt_v (b : Byte) : (s.setDt b).v = s.v := rfl
@[simp] theorem setDt_index (b : Byte) : (s.setDt b).index = s.index := rfl
@[simp] theorem setDt_pc (b : Byte) : (s.setDt b).pc = s.pc := rfl
@[simp] theorem setDt_sp (b : Byte) : (s.setDt b).sp = s.sp := rfl
@[simp] theorem setDt_stack (b : Byte) : (s.setDt b).stack = s.stack := rfl
@[simp] theorem setDt_dt (b : Byte) : (s.setDt b).dt = b := rfl
@[simp] theorem setDt_st (b : Byte) : (s.setDt b).st = s.st := rfl
@[simp] theorem setDt_keys (b : Byte) : (s.setDt b).keys = s.keys := rfl
@[simp] theorem setDt_fb (b : Byte) : (s.setDt b).fb = s.fb := rfl
@[simp] theorem setDt_mem (b : Byte) : (s.setDt b).mem = s.mem := rfl
@[simp] theorem setDt_fault (b : Byte) : (s.setDt b).fault = s.fault := rfl
@[simp] theorem setDt_diagClass (b : Byte) : (s.setDt b).diagClass = s.diagClass := rfl
@[simp] theorem setDt_diagUnrecognized (b : Byte) : (s.setDt b).diagUnrecognized = s.diagUnrecognized := rfl
@[simp] theorem setDt_loadError (b : Byte) : (s.setDt b).loadError = s.loadError := rfl
@[simp] theorem setDt_cfg (b : Byte) : (s.setDt b).cfg = s.cfg := rfl
@[simp] theorem setDt_draws (b : Byte) : (s.setDt b).draws = s.draws := rfl
@[simp] theorem setDt_agenda (b : Byte) : (s.setDt b).agenda = s.agenda := rfl

@[simp] theorem setDt_reg (b : Byte) (r : Reg) : (s.setDt b).reg r = s.reg r := rfl
@[simp] theorem setDt_key (b : Byte) (j : Key) : (s.setDt b).key j = s.key j := rfl
@[simp] theorem setDt_pixel (b : Byte) (px : Fin 64) (py : Fin 32) : (s.setDt b).pixel px py = s.pixel px py := rfl
@[simp] theorem setDt_readByte (b : Byte) (i : Nat) : (s.setDt b).readByte i = s.readByte i := rfl
@[simp] theorem setDt_halted (b : Byte) : (s.setDt b).halted = s.halted := rfl
@[simp] theorem setDt_effAddr (b : Byte) (i : Nat) : (s.setDt b).effAddr i = s.effAddr i := rfl

/-! ### setSt -/

@[simp] theorem setSt_v (b : Byte) : (s.setSt b).v = s.v := rfl
@[simp] theorem setSt_index (b : Byte) : (s.setSt b).index = s.index := rfl
@[simp] theorem setSt_pc (b : Byte) : (s.setSt b).pc = s.pc := rfl
@[simp] theorem setSt_sp (b : Byte) : (s.setSt b).sp = s.sp := rfl
@[simp] theorem setSt_stack (b : Byte) : (s.setSt b).stack = s.stack := rfl
@[simp] theorem setSt_dt (b : Byte) : (s.setSt b).dt = s.dt := rfl
@[simp] theorem setSt_st (b : Byte) : (s.setSt b).st = b := rfl
@[simp] theorem setSt_keys (b : Byte) : (s.setSt b).keys = s.keys := rfl
@[simp] theorem setSt_fb (b : Byte) : (s.setSt b).fb = s.fb := rfl
@[simp] theorem setSt_mem (b : Byte) : (s.setSt b).mem = s.mem := rfl
@[simp] theorem setSt_fault (b : Byte) : (s.setSt b).fault = s.fault := rfl
@[simp] theorem setSt_diagClass (b : Byte) : (s.setSt b).diagClass = s.diagClass := rfl
@[simp] theorem setSt_diagUnrecognized (b : Byte) : (s.setSt b).diagUnrecognized = s.diagUnrecognized := rfl
@[simp] theorem setSt_loadError (b : Byte) : (s.setSt b).loadError = s.loadError := rfl
@[simp] theorem setSt_cfg (b : Byte) : (s.setSt b).cfg = s.cfg := rfl
@[simp] theorem setSt_draws (b : Byte) : (s.setSt b).draws = s.draws := rfl
@[simp] theorem setSt_agenda (b : Byte) : (s.setSt b).agenda = s.agenda := rfl

@[simp] theorem setSt_reg (b : Byte) (r : Reg) : (s.setSt b).reg r = s.reg r := rfl
@[simp] theorem setSt_key (b : Byte) (j : Key) : (s.setSt b).key j = s.key j := rfl
@[simp] theorem setSt_pixel (b : Byte) (px : Fin 64) (py : Fin 32) : (s.setSt b).pixel px py = s.pixel px py := rfl
@[simp] theorem setSt_readByte (b : Byte) (i : Nat) : (s.setSt b).readByte i = s.readByte i := rfl
@[simp] theorem setSt_halted (b : Byte) : (s.setSt b).halted = s.halted := rfl
@[simp] theorem setSt_effAddr (b : Byte) (i : Nat) : (s.setSt b).effAddr i = s.effAddr i := rfl

/-! ### setFb -/

@[simp] theorem setFb_v (f : FrameBuffer) : (s.setFb f).v = s.v := rfl
@[simp] theorem setFb_index (f : FrameBuffer) : (s.setFb f).index = s.index := rfl
@[simp] theorem setFb_pc (f : FrameBuffer) : (s.setFb f).pc = s.pc := rfl
@[simp] theorem setFb_sp (f : FrameBuffer) : (s.setFb f).sp = s.sp := rfl
@[simp] theorem setFb_stack (f : FrameBuffer) : (s.setFb f).stack = s.stack := rfl
@[simp] theorem setFb_dt (f : FrameBuffer) : (s.setFb f).dt = s.dt := rfl
@[simp] theorem setFb_st (f : FrameBuffer) : (s.setFb f).st = s.st := rfl
@[simp] theorem setFb_keys (f : FrameBuffer) : (s.setFb f).keys = s.keys := rfl
@[simp] theorem setFb_fb (f : FrameBuffer) : (s.setFb f).fb = f := rfl
@[simp] theorem setFb_mem (f : FrameBuffer) : (s.setFb f).mem = s.mem := rfl
@[simp] theorem setFb_fault (f : FrameBuffer) : (s.setFb f).fault = s.fault := rfl
@[simp] theorem setFb_diagClass (f : FrameBuffer) : (s.setFb f).diagClass = s.diagClass := rfl
@[simp] theorem setFb_diagUnrecognized (f : FrameBuffer) : (s.setFb f).diagUnrecognized = s.diagUnrecognized := rfl
@[simp] theorem setFb_loadError (f : FrameBuffer) : (s.setFb f).loadError = s.loadError := rfl
@[simp] theorem setFb_cfg (f : FrameBuffer) : (s.setFb f).cfg = s.cfg := rfl
@[simp] theorem setFb_draws (f : FrameBuffer) : (s.setFb f).draws = s.draws := rfl
@[simp] theorem setFb_agenda (f : FrameBuffer) : (s.setFb f).agenda = s.agenda := rfl

@[simp] theorem setFb_reg (f : FrameBuffer) (r : Reg) : (s.setFb f).reg r = s.reg r := rfl
@[simp] theorem setFb_key (f : FrameBuffer) (j : Key) : (s.setFb f).key j = s.key j := rfl
@[simp] theorem setFb_readByte (f : FrameBuffer) (i : Nat) : (s.setFb f).readByte i = s.readByte i := rfl
@[simp] theorem setFb_halted (f : FrameBuffer) : (s.setFb f).halted = s.halted := rfl
@[simp] theorem setFb_effAddr (f : FrameBuffer) (i : Nat) : (s.setFb f).effAddr i = s.effAddr i := rfl

/-! ### setPc -/

@[simp] theorem setPc_v (w : Word) : (s.setPc w).v = s.v := rfl
@[simp] theorem setPc_index (w : Word) : (s.setPc w).index = s.index := rfl
@[simp] theorem setPc_pc (w : Word) : (s.setPc w).pc = w := rfl
@[simp] theorem setPc_sp (w : Word) : (s.setPc w).sp = s.sp := rfl
@[simp] theorem setPc_stack (w : Word) : (s.setPc w).stack = s.stack := rfl
@[simp] theorem setPc_dt (w : Word) : (s.setPc w).dt = s.dt := rfl
@[simp] theorem setPc_st (w : Word) : (s.setPc w).st = s.st := rfl
@[simp] theorem setPc_keys (w : Word) : (s.setPc w).keys = s.keys := rfl
@[simp] theorem setPc_fb (w : Word) : (s.setPc w).fb = s.fb := rfl
@[simp] theorem setPc_mem (w : Word) : (s.setPc w).mem = s.mem := rfl
@[simp] theorem setPc_fault (w : Word) : (s.setPc w).fault = s.fault := rfl
@[simp] theorem setPc_diagClass (w : Word) : (s.setPc w).diagClass = s.diagClass := rfl
@[simp] theorem setPc_diagUnrecognized (w : Word) : (s.setPc w).diagUnrecognized = s.diagUnrecognized := rfl
@[simp] theorem setPc_loadError (w : Word) : (s.setPc w).loadError = s.loadError := rfl
@[simp] theorem setPc_cfg (w : Word) : (s.setPc w).cfg = s.cfg := rfl
@[simp] theorem setPc_draws (w : Word) : (s.setPc w).draws = s.draws := rfl
@[simp] theorem setPc_agenda (w : Word) : (s.setPc w).agenda = s.agenda := rfl

@[simp] theorem setPc_reg (w : Word) (r : Reg) : (s.setPc w).reg r = s.reg r := rfl
@[simp] theorem setPc_key (w : Word) (j : Key) : (s.setPc w).key j = s.key j := rfl
@[simp] theorem setPc_pixel (w : Word) (px : Fin 64) (py : Fin 32) : (s.setPc w).pixel px py = s.pixel px py := rfl
@[simp] theorem setPc_readByte (w : Word) (i : Nat) : (s.setPc w).readByte i = s.readByte i := rfl
@[simp] theorem setPc_halted (w : Word) : (s.setPc w).halted = s.halted := rfl
@[simp] theorem setPc_effAddr (w : Word) (i : Nat) : (s.setPc w).effAddr i = s.effAddr i := rfl

/-! ### advancePc -/

@[simp] theorem advancePc_v : (s.advancePc).v = s.v := rfl
@[simp] theorem advancePc_index : (s.advancePc).index = s.index := rfl
@[simp] theorem advancePc_pc : (s.advancePc).pc = s.pc + 2 := rfl
@[simp] theorem advancePc_sp : (s.advancePc).sp = s.sp := rfl
@[simp] theorem advancePc_stack : (s.advancePc).stack = s.stack := rfl
@[simp] theorem advancePc_dt : (s.advancePc).dt = s.dt := rfl
@[simp] theorem advancePc_st : (s.advancePc).st = s.st := rfl
@[simp] theorem advancePc_keys : (s.advancePc).keys = s.keys := rfl
@[simp] theorem advancePc_fb : (s.advancePc).fb = s.fb := rfl
@[simp] theorem advancePc_mem : (s.advancePc).mem = s.mem := rfl
@[simp] theorem advancePc_fault : (s.advancePc).fault = s.fault := rfl
@[simp] theorem advancePc_diagClass : (s.advancePc).diagClass = s.diagClass := rfl
@[simp] theorem advancePc_diagUnrecognized : (s.advancePc).diagUnrecognized = s.diagUnrecognized := rfl
@[simp] theorem advancePc_loadError : (s.advancePc).loadError = s.loadError := rfl
@[simp] theorem advancePc_cfg : (s.advancePc).cfg = s.cfg := rfl
@[simp] theorem advancePc_draws : (s.advancePc).draws = s.draws := rfl
@[simp] theorem advancePc_agenda : (s.advancePc).agenda = s.agenda := rfl

@[simp] theorem advancePc_reg (r : Reg) : (s.advancePc).reg r = s.reg r := rfl
@[simp] theorem advancePc_key (j : Key) : (s.advancePc).key j = s.key j := rfl
@[simp] theorem advancePc_pixel (px : Fin 64) (py : Fin 32) : (s.advancePc).pixel px py = s.pixel px py := rfl
@[simp] theorem advancePc_readByte (i : Nat) : (s.advancePc).readByte i = s.readByte i := rfl
@[simp] theorem advancePc_halted : (s.advancePc).halted = s.halted := rfl
@[simp] theorem advancePc_effAddr (i : Nat) : (s.advancePc).effAddr i = s.effAddr i := rfl

/-! ### rewindPc -/

@[simp] theorem rewindPc_v : (s.rewindPc).v = s.v := rfl
@[simp] theorem rewindPc_index : (s.rewindPc).index = s.index := rfl
@[simp] theorem rewindPc_pc : (s.rewindPc).pc = s.pc - 2 := rfl
@[simp] theorem rewindPc_sp : (s.rewindPc).sp = s.sp := rfl
@[simp] theorem rewindPc_stack : (s.rewindPc).stack = s.stack := rfl
@[simp] theorem rewindPc_dt : (s.rewindPc).dt = s.dt := rfl
@[simp] theorem rewindPc_st : (s.rewindPc).st = s.st := rfl
@[simp] theorem rewindPc_keys : (s.rewindPc).keys = s.keys := rfl
@[simp] theorem rewindPc_fb : (s.rewindPc).fb = s.fb := rfl
@[simp] theorem rewindPc_mem : (s.rewindPc).mem = s.mem := rfl
@[simp] theorem rewindPc_fault : (s.rewindPc).fault = s.fault := rfl
@[simp] theorem rewindPc_diagClass : (s.rewindPc).diagClass = s.diagClass := rfl
@[simp] theorem rewindPc_diagUnrecognized : (s.rewindPc).diagUnrecognized = s.diagUnrecognized := rfl
@[simp] theorem rewindPc_loadError : (s.rewindPc).loadError = s.loadError := rfl
@[simp] theorem rewindPc_cfg : (s.rewindPc).cfg = s.cfg := rfl
@[simp] theorem rewindPc_draws : (s.rewindPc).draws = s.draws := rfl
@[simp] theorem rewindPc_agenda : (s.rewindPc).agenda = s.agenda := rfl

@[simp] theorem rewindPc_reg (r : Reg) : (s.rewindPc).reg r = s.reg r := rfl
@[simp] theorem rewindPc_key (j : Key) : (s.rewindPc).key j = s.key j := rfl
@[simp] theorem rewindPc_pixel (px : Fin 64) (py : Fin 32) : (s.rewindPc).pixel px py = s.pixel px py := rfl
@[simp] theorem rewindPc_readByte (i : Nat) : (s.rewindPc).readByte i = s.readByte i := rfl
@[simp] theorem rewindPc_halted : (s.rewindPc).halted = s.halted := rfl
@[simp] theorem rewindPc_effAddr (i : Nat) : (s.rewindPc).effAddr i = s.effAddr i := rfl

/-! ### push -/

@[simp] theorem push_v (w : Word) : (s.push w).v = s.v := rfl
@[simp] theorem push_index (w : Word) : (s.push w).index = s.index := rfl
@[simp] theorem push_pc (w : Word) : (s.push w).pc = s.pc := rfl
@[simp] theorem push_sp (w : Word) : (s.push w).sp = s.sp + 1 := rfl
@[simp] theorem push_stack (w : Word) : (s.push w).stack = s.stack.set s.sp w := rfl
@[simp] theorem push_dt (w : Word) : (s.push w).dt = s.dt := rfl
@[simp] theorem push_st (w : Word) : (s.push w).st = s.st := rfl
@[simp] theorem push_keys (w : Word) : (s.push w).keys = s.keys := rfl
@[simp] theorem push_fb (w : Word) : (s.push w).fb = s.fb := rfl
@[simp] theorem push_mem (w : Word) : (s.push w).mem = s.mem := rfl
@[simp] theorem push_fault (w : Word) : (s.push w).fault = s.fault := rfl
@[simp] theorem push_diagClass (w : Word) : (s.push w).diagClass = s.diagClass := rfl
@[simp] theorem push_diagUnrecognized (w : Word) : (s.push w).diagUnrecognized = s.diagUnrecognized := rfl
@[simp] theorem push_loadError (w : Word) : (s.push w).loadError = s.loadError := rfl
@[simp] theorem push_cfg (w : Word) : (s.push w).cfg = s.cfg := rfl
@[simp] theorem push_draws (w : Word) : (s.push w).draws = s.draws := rfl
@[simp] theorem push_agenda (w : Word) : (s.push w).agenda = s.agenda := rfl

@[simp] theorem push_reg (w : Word) (r : Reg) : (s.push w).reg r = s.reg r := rfl
@[simp] theorem push_key (w : Word) (j : Key) : (s.push w).key j = s.key j := rfl
@[simp] theorem push_pixel (w : Word) (px : Fin 64) (py : Fin 32) : (s.push w).pixel px py = s.pixel px py := rfl
@[simp] theorem push_readByte (w : Word) (i : Nat) : (s.push w).readByte i = s.readByte i := rfl
@[simp] theorem push_halted (w : Word) : (s.push w).halted = s.halted := rfl
@[simp] theorem push_effAddr (w : Word) (i : Nat) : (s.push w).effAddr i = s.effAddr i := rfl

/-! ### drop -/

@[simp] theorem drop_v : (s.drop).v = s.v := rfl
@[simp] theorem drop_index : (s.drop).index = s.index := rfl
@[simp] theorem drop_pc : (s.drop).pc = s.pc := rfl
@[simp] theorem drop_sp : (s.drop).sp = s.sp - 1 := rfl
@[simp] theorem drop_stack : (s.drop).stack = s.stack := rfl
@[simp] theorem drop_dt : (s.drop).dt = s.dt := rfl
@[simp] theorem drop_st : (s.drop).st = s.st := rfl
@[simp] theorem drop_keys : (s.drop).keys = s.keys := rfl
@[simp] theorem drop_fb : (s.drop).fb = s.fb := rfl
@[simp] theorem drop_mem : (s.drop).mem = s.mem := rfl
@[simp] theorem drop_fault : (s.drop).fault = s.fault := rfl
@[simp] theorem drop_diagClass : (s.drop).diagClass = s.diagClass := rfl
@[simp] theorem drop_diagUnrecognized : (s.drop).diagUnrecognized = s.diagUnrecognized := rfl
@[simp] theorem drop_loadError : (s.drop).loadError = s.loadError := rfl
@[simp] theorem drop_cfg : (s.drop).cfg = s.cfg := rfl
@[simp] theorem drop_draws : (s.drop).draws = s.draws := rfl
@[simp] theorem drop_agenda : (s.drop).agenda = s.agenda := rfl

@[simp] theorem drop_reg (r : Reg) : (s.drop).reg r = s.reg r := rfl
@[simp] theorem drop_key (j : Key) : (s.drop).key j = s.key j := rfl
@[simp] theorem drop_pixel (px : Fin 64) (py : Fin 32) : (s.drop).pixel px py = s.pixel px py := rfl
@[simp] theorem drop_readByte (i : Nat) : (s.drop).readByte i = s.readByte i := rfl
@[simp] theorem drop_halted : (s.drop).halted = s.halted := rfl
@[simp] theorem drop_effAddr (i : Nat) : (s.drop).effAddr i = s.effAddr i := rfl

/-! ### writeByte -/

@[simp] theorem writeByte_v (a : Nat) (b : Byte) : (s.writeByte a b).v = s.v := rfl
@[simp] theorem writeByte_index (a : Nat) (b : Byte) : (s.writeByte a b).index = s.index := rfl
@[simp] theorem writeByte_pc (a : Nat) (b : Byte) : (s.writeByte a b).pc = s.pc := rfl
@[simp] theorem writeByte_sp (a : Nat) (b : Byte) : (s.writeByte a b).sp = s.sp := rfl
@[simp] theorem writeByte_stack (a : Nat) (b : Byte) : (s.writeByte a b).stack = s.stack := rfl
@[simp] theorem writeByte_dt (a : Nat) (b : Byte) : (s.writeByte a b).dt = s.dt := rfl
@[simp] theorem writeByte_st (a : Nat) (b : Byte) : (s.writeByte a b).st = s.st := rfl
@[simp] theorem writeByte_keys (a : Nat) (b : Byte) : (s.writeByte a b).keys = s.keys := rfl
@[simp] theorem writeByte_fb (a : Nat) (b : Byte) : (s.writeByte a b).fb = s.fb := rfl
@[simp] theorem writeByte_mem (a : Nat) (b : Byte) : (s.writeByte a b).mem = s.mem.write s.cfg.memFill a b := rfl
@[simp] theorem writeByte_fault (a : Nat) (b : Byte) : (s.writeByte a b).fault = s.fault := rfl
@[simp] theorem writeByte_diagClass (a : Nat) (b : Byte) : (s.writeByte a b).diagClass = s.diagClass := rfl
@[simp] theorem writeByte_diagUnrecognized (a : Nat) (b : Byte) : (s.writeByte a b).diagUnrecognized = s.diagUnrecognized := rfl
@[simp] theorem writeByte_loadError (a : Nat) (b : Byte) : (s.writeByte a b).loadError = s.loadError := rfl
@[simp] theorem writeByte_cfg (a : Nat) (b : Byte) : (s.writeByte a b).cfg = s.cfg := rfl
@[simp] theorem writeByte_draws (a : Nat) (b : Byte) : (s.writeByte a b).draws = s.draws := rfl
@[simp] theorem writeByte_agenda (a : Nat) (b : Byte) : (s.writeByte a b).agenda = s.agenda := rfl

@[simp] theorem writeByte_reg (a : Nat) (b : Byte) (r : Reg) : (s.writeByte a b).reg r = s.reg r := rfl
@[simp] theorem writeByte_key (a : Nat) (b : Byte) (j : Key) : (s.writeByte a b).key j = s.key j := rfl
@[simp] theorem writeByte_pixel (a : Nat) (b : Byte) (px : Fin 64) (py : Fin 32) : (s.writeByte a b).pixel px py = s.pixel px py := rfl
@[simp] theorem writeByte_halted (a : Nat) (b : Byte) : (s.writeByte a b).halted = s.halted := rfl
@[simp] theorem writeByte_effAddr (a : Nat) (b : Byte) (i : Nat) : (s.writeByte a b).effAddr i = s.effAddr i := rfl

/-! ### recordFault -/

@[simp] theorem recordFault_v (c : FaultCode) (a : Word) : (s.recordFault c a).v = s.v := rfl
@[simp] theorem recordFault_index (c : FaultCode) (a : Word) : (s.recordFault c a).index = s.index := rfl
@[simp] theorem recordFault_pc (c : FaultCode) (a : Word) : (s.recordFault c a).pc = s.pc := rfl
@[simp] theorem recordFault_sp (c : FaultCode) (a : Word) : (s.recordFault c a).sp = s.sp := rfl
@[simp] theorem recordFault_stack (c : FaultCode) (a : Word) : (s.recordFault c a).stack = s.stack := rfl
@[simp] theorem recordFault_dt (c : FaultCode) (a : Word) : (s.recordFault c a).dt = s.dt := rfl
@[simp] theorem recordFault_st (c : FaultCode) (a : Word) : (s.recordFault c a).st = s.st := rfl
@[simp] theorem recordFault_keys (c : FaultCode) (a : Word) : (s.recordFault c a).keys = s.keys := rfl
@[simp] theorem recordFault_fb (c : FaultCode) (a : Word) : (s.recordFault c a).fb = s.fb := rfl
@[simp] theorem recordFault_mem (c : FaultCode) (a : Word) : (s.recordFault c a).mem = s.mem := rfl
@[simp] theorem recordFault_fault (c : FaultCode) (a : Word) : (s.recordFault c a).fault = ⟨c, a⟩ := rfl
@[simp] theorem recordFault_diagClass (c : FaultCode) (a : Word) : (s.recordFault c a).diagClass = s.diagClass := rfl
@[simp] theorem recordFault_diagUnrecognized (c : FaultCode) (a : Word) : (s.recordFault c a).diagUnrecognized = s.diagUnrecognized := rfl
@[simp] theorem recordFault_loadError (c : FaultCode) (a : Word) : (s.recordFault c a).loadError = s.loadError := rfl
@[simp] theorem recordFault_cfg (c : FaultCode) (a : Word) : (s.recordFault c a).cfg = s.cfg := rfl
@[simp] theorem recordFault_draws (c : FaultCode) (a : Word) : (s.recordFault c a).draws = s.draws := rfl
@[simp] theorem recordFault_agenda (c : FaultCode) (a : Word) : (s.recordFault c a).agenda = s.agenda := rfl

@[simp] theorem recordFault_reg (c : FaultCode) (a : Word) (r : Reg) : (s.recordFault c a).reg r = s.reg r := rfl
@[simp] theorem recordFault_key (c : FaultCode) (a : Word) (j : Key) : (s.recordFault c a).key j = s.key j := rfl
@[simp] theorem recordFault_pixel (c : FaultCode) (a : Word) (px : Fin 64) (py : Fin 32) : (s.recordFault c a).pixel px py = s.pixel px py := rfl
@[simp] theorem recordFault_readByte (c : FaultCode) (a : Word) (i : Nat) : (s.recordFault c a).readByte i = s.readByte i := rfl
@[simp] theorem recordFault_effAddr (c : FaultCode) (a : Word) (i : Nat) : (s.recordFault c a).effAddr i = s.effAddr i := rfl

/-! ### noteDiag -/

@[simp] theorem noteDiag_v (w : Word) (u : Bool) : (s.noteDiag w u).v = s.v := rfl
@[simp] theorem noteDiag_index (w : Word) (u : Bool) : (s.noteDiag w u).index = s.index := rfl
@[simp] theorem noteDiag_pc (w : Word) (u : Bool) : (s.noteDiag w u).pc = s.pc := rfl
@[simp] theorem noteDiag_sp (w : Word) (u : Bool) : (s.noteDiag w u).sp = s.sp := rfl
@[simp] theorem noteDiag_stack (w : Word) (u : Bool) : (s.noteDiag w u).stack = s.stack := rfl
@[simp] theorem noteDiag_dt (w : Word) (u : Bool) : (s.noteDiag w u).dt = s.dt := rfl
@[simp] theorem noteDiag_st (w : Word) (u : Bool) : (s.noteDiag w u).st = s.st := rfl
@[simp] theorem noteDiag_keys (w : Word) (u : Bool) : (s.noteDiag w u).keys = s.keys := rfl
@[simp] theorem noteDiag_fb (w : Word) (u : Bool) : (s.noteDiag w u).fb = s.fb := rfl
@[simp] theorem noteDiag_mem (w : Word) (u : Bool) : (s.noteDiag w u).mem = s.mem := rfl
@[simp] theorem noteDiag_fault (w : Word) (u : Bool) : (s.noteDiag w u).fault = s.fault := rfl
@[simp] theorem noteDiag_diagClass (w : Word) (u : Bool) : (s.noteDiag w u).diagClass = classOf w := rfl
@[simp] theorem noteDiag_diagUnrecognized (w : Word) (u : Bool) : (s.noteDiag w u).diagUnrecognized = u := rfl
@[simp] theorem noteDiag_loadError (w : Word) (u : Bool) : (s.noteDiag w u).loadError = s.loadError := rfl
@[simp] theorem noteDiag_cfg (w : Word) (u : Bool) : (s.noteDiag w u).cfg = s.cfg := rfl
@[simp] theorem noteDiag_draws (w : Word) (u : Bool) : (s.noteDiag w u).draws = s.draws := rfl
@[simp] theorem noteDiag_agenda (w : Word) (u : Bool) : (s.noteDiag w u).agenda = s.agenda := rfl

@[simp] theorem noteDiag_reg (w : Word) (u : Bool) (r : Reg) : (s.noteDiag w u).reg r = s.reg r := rfl
@[simp] theorem noteDiag_key (w : Word) (u : Bool) (j : Key) : (s.noteDiag w u).key j = s.key j := rfl
@[simp] theorem noteDiag_pixel (w : Word) (u : Bool) (px : Fin 64) (py : Fin 32) : (s.noteDiag w u).pixel px py = s.pixel px py := rfl
@[simp] theorem noteDiag_readByte (w : Word) (u : Bool) (i : Nat) : (s.noteDiag w u).readByte i = s.readByte i := rfl
@[simp] theorem noteDiag_halted (w : Word) (u : Bool) : (s.noteDiag w u).halted = s.halted := rfl
@[simp] theorem noteDiag_effAddr (w : Word) (u : Bool) (i : Nat) : (s.noteDiag w u).effAddr i = s.effAddr i := rfl

/-! ### tick -/

@[simp] theorem tick_v : (s.tick).v = s.v := rfl
@[simp] theorem tick_index : (s.tick).index = s.index := rfl
@[simp] theorem tick_pc : (s.tick).pc = s.pc := rfl
@[simp] theorem tick_sp : (s.tick).sp = s.sp := rfl
@[simp] theorem tick_stack : (s.tick).stack = s.stack := rfl
@[simp] theorem tick_dt : (s.tick).dt = countDown s.dt := rfl
@[simp] theorem tick_st : (s.tick).st = countDown s.st := rfl
@[simp] theorem tick_keys : (s.tick).keys = s.keys := rfl
@[simp] theorem tick_fb : (s.tick).fb = s.fb := rfl
@[simp] theorem tick_mem : (s.tick).mem = s.mem := rfl
@[simp] theorem tick_fault : (s.tick).fault = s.fault := rfl
@[simp] theorem tick_diagClass : (s.tick).diagClass = s.diagClass := rfl
@[simp] theorem tick_diagUnrecognized : (s.tick).diagUnrecognized = s.diagUnrecognized := rfl
@[simp] theorem tick_loadError : (s.tick).loadError = s.loadError := rfl
@[simp] theorem tick_cfg : (s.tick).cfg = s.cfg := rfl
@[simp] theorem tick_draws : (s.tick).draws = s.draws := rfl
@[simp] theorem tick_agenda : (s.tick).agenda = s.agenda := rfl

@[simp] theorem tick_reg (r : Reg) : (s.tick).reg r = s.reg r := rfl
@[simp] theorem tick_key (j : Key) : (s.tick).key j = s.key j := rfl
@[simp] theorem tick_pixel (px : Fin 64) (py : Fin 32) : (s.tick).pixel px py = s.pixel px py := rfl
@[simp] theorem tick_readByte (i : Nat) : (s.tick).readByte i = s.readByte i := rfl
@[simp] theorem tick_halted : (s.tick).halted = s.halted := rfl
@[simp] theorem tick_effAddr (i : Nat) : (s.tick).effAddr i = s.effAddr i := rfl

/-! ### setAgenda -/

@[simp] theorem setAgenda_v (es : List HostEvent) : (s.setAgenda es).v = s.v := rfl
@[simp] theorem setAgenda_index (es : List HostEvent) : (s.setAgenda es).index = s.index := rfl
@[simp] theorem setAgenda_pc (es : List HostEvent) : (s.setAgenda es).pc = s.pc := rfl
@[simp] theorem setAgenda_sp (es : List HostEvent) : (s.setAgenda es).sp = s.sp := rfl
@[simp] theorem setAgenda_stack (es : List HostEvent) : (s.setAgenda es).stack = s.stack := rfl
@[simp] theorem setAgenda_dt (es : List HostEvent) : (s.setAgenda es).dt = s.dt := rfl
@[simp] theorem setAgenda_st (es : List HostEvent) : (s.setAgenda es).st = s.st := rfl
@[simp] theorem setAgenda_keys (es : List HostEvent) : (s.setAgenda es).keys = s.keys := rfl
@[simp] theorem setAgenda_fb (es : List HostEvent) : (s.setAgenda es).fb = s.fb := rfl
@[simp] theorem setAgenda_mem (es : List HostEvent) : (s.setAgenda es).mem = s.mem := rfl
@[simp] theorem setAgenda_fault (es : List HostEvent) : (s.setAgenda es).fault = s.fault := rfl
@[simp] theorem setAgenda_diagClass (es : List HostEvent) : (s.setAgenda es).diagClass = s.diagClass := rfl
@[simp] theorem setAgenda_diagUnrecognized (es : List HostEvent) : (s.setAgenda es).diagUnrecognized = s.diagUnrecognized := rfl
@[simp] theorem setAgenda_loadError (es : List HostEvent) : (s.setAgenda es).loadError = s.loadError := rfl
@[simp] theorem setAgenda_cfg (es : List HostEvent) : (s.setAgenda es).cfg = s.cfg := rfl
@[simp] theorem setAgenda_draws (es : List HostEvent) : (s.setAgenda es).draws = s.draws := rfl
@[simp] theorem setAgenda_agenda (es : List HostEvent) : (s.setAgenda es).agenda = es := rfl

@[simp] theorem setAgenda_reg (es : List HostEvent) (r : Reg) : (s.setAgenda es).reg r = s.reg r := rfl
@[simp] theorem setAgenda_key (es : List HostEvent) (j : Key) : (s.setAgenda es).key j = s.key j := rfl
@[simp] theorem setAgenda_pixel (es : List HostEvent) (px : Fin 64) (py : Fin 32) : (s.setAgenda es).pixel px py = s.pixel px py := rfl
@[simp] theorem setAgenda_readByte (es : List HostEvent) (i : Nat) : (s.setAgenda es).readByte i = s.readByte i := rfl
@[simp] theorem setAgenda_halted (es : List HostEvent) : (s.setAgenda es).halted = s.halted := rfl
@[simp] theorem setAgenda_effAddr (es : List HostEvent) (i : Nat) : (s.setAgenda es).effAddr i = s.effAddr i := rfl

/-! ### report -/

@[simp] theorem report_v (e : Bool) : (s.report e).v = s.v := rfl
@[simp] theorem report_index (e : Bool) : (s.report e).index = s.index := rfl
@[simp] theorem report_pc (e : Bool) : (s.report e).pc = s.pc := rfl
@[simp] theorem report_sp (e : Bool) : (s.report e).sp = s.sp := rfl
@[simp] theorem report_stack (e : Bool) : (s.report e).stack = s.stack := rfl
@[simp] theorem report_dt (e : Bool) : (s.report e).dt = s.dt := rfl
@[simp] theorem report_st (e : Bool) : (s.report e).st = s.st := rfl
@[simp] theorem report_keys (e : Bool) : (s.report e).keys = s.keys := rfl
@[simp] theorem report_fb (e : Bool) : (s.report e).fb = s.fb := rfl
@[simp] theorem report_mem (e : Bool) : (s.report e).mem = s.mem := rfl
@[simp] theorem report_fault (e : Bool) : (s.report e).fault = s.fault := rfl
@[simp] theorem report_diagClass (e : Bool) : (s.report e).diagClass = s.diagClass := rfl
@[simp] theorem report_diagUnrecognized (e : Bool) : (s.report e).diagUnrecognized = s.diagUnrecognized := rfl
@[simp] theorem report_loadError (e : Bool) : (s.report e).loadError = e := rfl
@[simp] theorem report_cfg (e : Bool) : (s.report e).cfg = s.cfg := rfl
@[simp] theorem report_draws (e : Bool) : (s.report e).draws = s.draws := rfl
@[simp] theorem report_agenda (e : Bool) : (s.report e).agenda = s.agenda := rfl

@[simp] theorem report_reg (e : Bool) (r : Reg) : (s.report e).reg r = s.reg r := rfl
@[simp] theorem report_key (e : Bool) (j : Key) : (s.report e).key j = s.key j := rfl
@[simp] theorem report_pixel (e : Bool) (px : Fin 64) (py : Fin 32) : (s.report e).pixel px py = s.pixel px py := rfl
@[simp] theorem report_readByte (e : Bool) (i : Nat) : (s.report e).readByte i = s.readByte i := rfl
@[simp] theorem report_halted (e : Bool) : (s.report e).halted = s.halted := rfl
@[simp] theorem report_effAddr (e : Bool) (i : Nat) : (s.report e).effAddr i = s.effAddr i := rfl

/-! ### keyWrite -/

@[simp] theorem keyWrite_v (k : Key) (b : Bool) : (s.keyWrite k b).v = s.v := rfl
@[simp] theorem keyWrite_index (k : Key) (b : Bool) : (s.keyWrite k b).index = s.index := rfl
@[simp] theorem keyWrite_pc (k : Key) (b : Bool) : (s.keyWrite k b).pc = s.pc := rfl
@[simp] theorem keyWrite_sp (k : Key) (b : Bool) : (s.keyWrite k b).sp = s.sp := rfl
@[simp] theorem keyWrite_stack (k : Key) (b : Bool) : (s.keyWrite k b).stack = s.stack := rfl
@[simp] theorem keyWrite_dt (k : Key) (b : Bool) : (s.keyWrite k b).dt = s.dt := rfl
@[simp] theorem keyWrite_st (k : Key) (b : Bool) : (s.keyWrite k b).st = s.st := rfl
@[simp] theorem keyWrite_keys (k : Key) (b : Bool) : (s.keyWrite k b).keys = s.keys.set k.val b := rfl
@[simp] theorem keyWrite_fb (k : Key) (b : Bool) : (s.keyWrite k b).fb = s.fb := rfl
@[simp] theorem keyWrite_mem (k : Key) (b : Bool) : (s.keyWrite k b).mem = s.mem := rfl
@[simp] theorem keyWrite_fault (k : Key) (b : Bool) : (s.keyWrite k b).fault = s.fault := rfl
@[simp] theorem keyWrite_diagClass (k : Key) (b : Bool) : (s.keyWrite k b).diagClass = s.diagClass := rfl
@[simp] theorem keyWrite_diagUnrecognized (k : Key) (b : Bool) : (s.keyWrite k b).diagUnrecognized = s.diagUnrecognized := rfl
@[simp] theorem keyWrite_loadError (k : Key) (b : Bool) : (s.keyWrite k b).loadError = s.loadError := rfl
@[simp] theorem keyWrite_cfg (k : Key) (b : Bool) : (s.keyWrite k b).cfg = s.cfg := rfl
@[simp] theorem keyWrite_draws (k : Key) (b : Bool) : (s.keyWrite k b).draws = s.draws := rfl
@[simp] theorem keyWrite_agenda (k : Key) (b : Bool) : (s.keyWrite k b).agenda = s.agenda := rfl

@[simp] theorem keyWrite_reg (k : Key) (b : Bool) (r : Reg) : (s.keyWrite k b).reg r = s.reg r := rfl
@[simp] theorem keyWrite_pixel (k : Key) (b : Bool) (px : Fin 64) (py : Fin 32) : (s.keyWrite k b).pixel px py = s.pixel px py := rfl
@[simp] theorem keyWrite_readByte (k : Key) (b : Bool) (i : Nat) : (s.keyWrite k b).readByte i = s.readByte i := rfl
@[simp] theorem keyWrite_halted (k : Key) (b : Bool) : (s.keyWrite k b).halted = s.halted := rfl
@[simp] theorem keyWrite_effAddr (k : Key) (b : Bool) (i : Nat) : (s.keyWrite k b).effAddr i = s.effAddr i := rfl

end Sys2Proof.Machine.State
end

