-- ==== Sys2Proof/Laws/Memory.lean ====
section
/-! SUPPORT. The laws of memory: read after write, every other byte unchanged, and the canonical form kept
by every operation. -/

namespace Sys2Proof.Machine

namespace Memory

theorem read_cell_ne {fill : Byte} {m : Memory} {a c : Nat} {b : Byte} (h : c ≠ a) :
    read fill (cell fill a b m) c = read fill m c := by
  unfold cell; split <;> simp [read, h]

/-- A write leaves every other byte alone, whatever the list. -/
theorem read_write_ne {fill : Byte} (m : Memory) {a c : Nat} {b : Byte} (h : c ≠ a) :
    read fill (write fill m a b) c = read fill m c := by
  induction m with
  | nil => simp [write, read_cell_ne h]
  | cons kv rest ih =>
    obtain ⟨k, v⟩ := kv
    simp only [write]
    split
    · exact read_cell_ne h
    · split
      · rw [read_cell_ne h]; simp_all [read]
      · simp [read, ih]

theorem wfFrom_mono {fill : Byte} {m : Memory} {lo lo' : Nat} (h : wfFrom fill lo' m = true) (hl : lo ≤ lo') :
    wfFrom fill lo m = true := by
  cases m with
  | nil => rfl
  | cons kv rest =>
    simp only [wfFrom, Bool.and_eq_true, decide_eq_true_eq] at h ⊢
    exact ⟨⟨⟨by omega, h.1.1.2⟩, h.1.2⟩, h.2⟩

/-- Nothing is listed below the lower bound. -/
theorem read_of_lt {fill : Byte} (m : Memory) {lo a : Nat} (h : wfFrom fill lo m = true) (ha : a < lo) :
    read fill m a = fill := by
  induction m generalizing lo with
  | nil => rfl
  | cons kv rest ih =>
    obtain ⟨k, v⟩ := kv
    simp [wfFrom] at h
    have : a ≠ k := by omega
    simpa [read, this] using ih h.2 (by omega)

theorem read_cell_same {fill : Byte} {m : Memory} {a : Nat} {b : Byte} (h : wfFrom fill (a + 1) m = true) :
    read fill (cell fill a b m) a = b := by
  unfold cell; split
  · rw [read_of_lt m h (by omega)]; simp_all
  · simp [read]

theorem read_write_same_from {fill : Byte} (m : Memory) {lo a : Nat} {b : Byte}
    (h : wfFrom fill lo m = true) : read fill (write fill m a b) a = b := by
  induction m generalizing lo with
  | nil => exact read_cell_same rfl
  | cons kv rest ih =>
    obtain ⟨k, v⟩ := kv
    have hh := h
    simp [wfFrom] at hh
    simp only [write]
    split
    · refine read_cell_same ?_
      simp [wfFrom]; exact ⟨⟨⟨by omega, hh.1.1.2⟩, hh.1.2⟩, hh.2⟩
    · split
      · subst_vars; exact read_cell_same hh.2
      · rename_i h1 h2; simp [read, h2, ih hh.2]

/-- Read after write to the same place. -/
theorem read_write_same {fill : Byte} {m : Memory} {a : Nat} {b : Byte} (h : m.wf fill = true) :
    read fill (write fill m a b) a = b := read_write_same_from m h

theorem wfFrom_cell {fill : Byte} {m : Memory} {lo a : Nat} {b : Byte} (hl : lo ≤ a) (ha : a < 4096)
    (h : wfFrom fill (a + 1) m = true) : wfFrom fill lo (cell fill a b m) = true := by
  unfold cell; split
  · exact wfFrom_mono h (by omega)
  · simp_all [wfFrom]

theorem wfFrom_write {fill : Byte} (m : Memory) {lo a : Nat} {b : Byte} (h : wfFrom fill lo m = true)
    (hl : lo ≤ a) (ha : a < 4096) : wfFrom fill lo (write fill m a b) = true := by
  induction m generalizing lo with
  | nil => exact wfFrom_cell hl ha rfl
  | cons kv rest ih =>
    obtain ⟨k, v⟩ := kv
    have hh := h
    simp [wfFrom] at hh
    simp only [write]
    split
    · refine wfFrom_cell hl ha ?_
      simp [wfFrom]; exact ⟨⟨⟨by omega, hh.1.1.2⟩, hh.1.2⟩, hh.2⟩
    · split
      · subst_vars; exact wfFrom_cell hl ha hh.2
      · have := ih hh.2 (by omega : k + 1 ≤ a)
        simp [wfFrom, this, hh.1.1.1, hh.1.1.2, hh.1.2]

/-- A write below 4096 keeps the canonical form. -/
theorem wf_write {fill : Byte} {m : Memory} {a : Nat} {b : Byte} (h : m.wf fill = true) (ha : a < 4096) :
    (m.write fill a b).wf fill = true := wfFrom_write m h (Nat.zero_le a) ha

@[simp] theorem wf_nil (fill : Byte) : wf fill [] = true := rfl

end Memory

namespace State

variable (s : State)

/-- The memory is in canonical form. -/
abbrev MemWf (s : State) : Prop := s.mem.wf s.cfg.memFill = true

theorem readByte_writeByte_ne {a c : Nat} {b : Byte} (h : c ≠ a) :
    (s.writeByte a b).readByte c = s.readByte c := Memory.read_write_ne s.mem h

theorem readByte_writeByte_same {a : Nat} {b : Byte} (h : s.MemWf) :
    (s.writeByte a b).readByte a = b := Memory.read_write_same h

theorem memWf_writeByte {a : Nat} {b : Byte} (h : s.MemWf) (ha : a < 4096) : (s.writeByte a b).MemWf :=
  Memory.wf_write h ha

/-! ### Sequences of writes -/

@[simp] theorem writeBytes_nil (a : Nat) : s.writeBytes a [] = s := rfl
theorem writeBytes_cons (a : Nat) (b : Byte) (bs : List Byte) :
    s.writeBytes a (b :: bs) = (s.writeByte a b).writeBytes (a + 1) bs := rfl

/-- A sequence of writes changes the memory and nothing else. -/
theorem writeBytes_eq (a : Nat) (bs : List Byte) :
    s.writeBytes a bs = { s with mem := (s.writeBytes a bs).mem } := by
  induction bs generalizing s a with
  | nil => rfl
  | cons b bs ih => rw [writeBytes_cons, ih]; rfl

/-- Bytes outside the sequence are unchanged. -/
theorem readByte_writeBytes_out (a : Nat) (bs : List Byte) {c : Nat} (h : c < a ∨ a + bs.length ≤ c) :
    (s.writeBytes a bs).readByte c = s.readByte c := by
  induction bs generalizing s a with
  | nil => rfl
  | cons b bs ih =>
    simp only [List.length_cons] at h
    rw [writeBytes_cons, ih _ _ (by omega), readByte_writeByte_ne _ (by omega)]

theorem memWf_writeBytes (a : Nat) (bs : List Byte) (h : s.MemWf) (ha : a + bs.length ≤ 4096) :
    (s.writeBytes a bs).MemWf := by
  induction bs generalizing s a with
  | nil => exact h
  | cons b bs ih =>
    simp only [List.length_cons] at ha
    exact ih _ _ (memWf_writeByte s h (by omega)) (by omega)

/-- Byte `i` of the sequence stands at `a + i`; the memory is canonical and the sequence in range. -/
theorem readByte_writeBytes_in (a : Nat) (bs : List Byte) (h : s.MemWf) (ha : a + bs.length ≤ 4096) (i : Nat)
    (hi : i < bs.length) : (s.writeBytes a bs).readByte (a + i) = bs[i] := by
  induction bs generalizing s a i with
  | nil => simp at hi
  | cons b bs ih =>
    simp only [List.length_cons] at ha hi
    rw [writeBytes_cons]
    cases i with
    | zero => rw [readByte_writeBytes_out _ _ _ (by omega)]; exact readByte_writeByte_same s h
    | succ i =>
      rw [show a + (i + 1) = a + 1 + i by omega]
      rw [ih _ (a + 1) (memWf_writeByte s h (by omega)) (by omega) i (by omega)]
      rfl

/-! ### Sequences of reads -/

@[simp] theorem readBytes_length (a n : Nat) : (s.readBytes a n).length = n := by
  induction n generalizing a with
  | zero => rfl
  | succ n ih => simp [readBytes, ih]

theorem readBytes_getElem? (a n i : Nat) :
    (s.readBytes a n)[i]? = if i < n then some (s.readByte (a + i)) else none := by
  induction n generalizing a i with
  | zero => simp [readBytes]
  | succ n ih =>
    cases i with
    | zero => simp [readBytes]
    | succ i => simp [readBytes, ih, show a + 1 + i = a + (i + 1) by omega]

@[simp] theorem readBytes_getElem (a n i : Nat) (h : i < (s.readBytes a n).length) :
    (s.readBytes a n)[i] = s.readByte (a + i) := by
  have := readBytes_getElem? s a n i
  rw [readBytes_length] at h
  rw [List.getElem?_eq_getElem (by simpa using h), if_pos h] at this
  exact Option.some.inj this

theorem readBytes_congr {s t : State} (a n : Nat) (h : ∀ i, i < n → t.readByte (a + i) = s.readByte (a + i)) :
    t.readBytes a n = s.readBytes a n := by
  apply List.ext_getElem
  · simp
  · intro i h1 _; simpa using h i (by simpa using h1)

end State

/-! ### Every field of a sequence of writes -/

namespace State

variable (s : State) (a : Nat) (bs : List Byte)

@[simp] theorem writeBytes_v : (s.writeBytes a bs).v = s.v := by rw [writeBytes_eq]
@[simp] theorem writeBytes_index : (s.writeBytes a bs).index = s.index := by rw [writeBytes_eq]
@[simp] theorem writeBytes_pc : (s.writeBytes a bs).pc = s.pc := by rw [writeBytes_eq]
@[simp] theorem writeBytes_sp : (s.writeBytes a bs).sp = s.sp := by rw [writeBytes_eq]
@[simp] theorem writeBytes_stack : (s.writeBytes a bs).stack = s.stack := by rw [writeBytes_eq]
@[simp] theorem writeBytes_dt : (s.writeBytes a bs).dt = s.dt := by rw [writeBytes_eq]
@[simp] theorem writeBytes_st : (s.writeBytes a bs).st = s.st := by rw [writeBytes_eq]
@[simp] theorem writeBytes_keys : (s.writeBytes a bs).keys = s.keys := by rw [writeBytes_eq]
@[simp] theorem writeBytes_fb : (s.writeBytes a bs).fb = s.fb := by rw [writeBytes_eq]
@[simp] theorem writeBytes_fault : (s.writeBytes a bs).fault = s.fault := by rw [writeBytes_eq]
@[simp] theorem writeBytes_loadError : (s.writeBytes a bs).loadError = s.loadError := by rw [writeBytes_eq]
@[simp] theorem writeBytes_diagClass : (s.writeBytes a bs).diagClass = s.diagClass := by rw [writeBytes_eq]
@[simp] theorem writeBytes_diagUnrecognized : (s.writeBytes a bs).diagUnrecognized = s.diagUnrecognized := by
  rw [writeBytes_eq]
@[simp] theorem writeBytes_cfg : (s.writeBytes a bs).cfg = s.cfg := by rw [writeBytes_eq]
@[simp] theorem writeBytes_draws : (s.writeBytes a bs).draws = s.draws := by rw [writeBytes_eq]
@[simp] theorem writeBytes_agenda : (s.writeBytes a bs).agenda = s.agenda := by rw [writeBytes_eq]
@[simp] theorem writeBytes_reg (r : Reg) : (s.writeBytes a bs).reg r = s.reg r := by rw [writeBytes_eq]; rfl
@[simp] theorem writeBytes_key (k : Key) : (s.writeBytes a bs).key k = s.key k := by rw [writeBytes_eq]; rfl
@[simp] theorem writeBytes_pixel (px : Fin 64) (py : Fin 32) : (s.writeBytes a bs).pixel px py = s.pixel px py := by
  rw [writeBytes_eq]; rfl
@[simp] theorem writeBytes_halted : (s.writeBytes a bs).halted = s.halted := by rw [writeBytes_eq]; rfl

end State

end Sys2Proof.Machine
end

