-- ==== Sys2Proof/Laws/Registers.lean ====
section
/-! SUPPORT. The laws of the registers, the key latch, the flag write and the register block. -/

namespace Sys2Proof.Machine.State

variable (s : State)

/-- Read after write of a general register. -/
@[simp] theorem reg_setReg (x r : Reg) (b : Byte) :
    (s.setReg x b).reg r = if r = x then b else s.reg r := by
  simp only [reg, setReg, Vector.getElem_set, Fin.ext_iff, eq_comm]

@[simp] theorem key_keyWrite (k j : Key) (b : Bool) :
    (s.keyWrite k b).key j = if j = k then b else s.key j := by
  simp only [key, keyWrite, Vector.getElem_set, Fin.ext_iff, eq_comm]

/-- The result is in `V[x]` unless `x` is 15; VF holds the flag; every other register is unchanged
(41_alu.md R130). -/
@[simp] theorem reg_writeResultThenFlag (x r : Reg) (b : Byte) (f : Bool) :
    (s.writeResultThenFlag x b f).reg r =
      if r = VF then flagByte f else if r = x then b else s.reg r := by
  simp [writeResultThenFlag]

/-- Nothing but the registers changes. -/
theorem writeResultThenFlag_eq (x : Reg) (b : Byte) (f : Bool) :
    s.writeResultThenFlag x b f = { s with v := (s.writeResultThenFlag x b f).v } := rfl

/-! ### The register block of reg-dump and reg-load -/

@[simp] theorem regBlock_length (x : Reg) : (s.regBlock x).length = x.val + 1 := by
  simp [regBlock]

theorem regBlock_getElem (x : Reg) (i : Nat) (h : i < (s.regBlock x).length) :
    (s.regBlock x)[i] = s.reg ⟨i, by rw [regBlock_length] at h; omega⟩ := by
  simp [regBlock, reg]

/-- Loading registers changes the registers and nothing else. -/
theorem loadRegs_eq (i : Nat) (bs : List Byte) :
    s.loadRegs i bs = { s with v := (s.loadRegs i bs).v } := by
  induction bs generalizing s i with
  | nil => rfl
  | cons b bs ih =>
    simp only [loadRegs]
    split
    · rw [ih]; rfl
    · rfl

/-- Register `r` gets its byte of the sequence; registers outside it are unchanged (42_index_memory.md R165). -/
theorem reg_loadRegs (i : Nat) (bs : List Byte) (r : Reg) :
    (s.loadRegs i bs).reg r = if h : i ≤ r.val ∧ r.val - i < bs.length then bs[r.val - i] else s.reg r := by
  induction bs generalizing s i with
  | nil => simp [loadRegs]
  | cons b bs ih =>
    simp only [loadRegs, List.length_cons]
    split
    · rw [ih, reg_setReg]
      by_cases h1 : r.val = i
      · have : r = ⟨i, by omega⟩ := Fin.ext h1
        subst this; simp
      · have h2 : r ≠ ⟨i, by omega⟩ := fun h => h1 (by rw [h])
        simp only [h2, if_false]
        by_cases h3 : i + 1 ≤ r.val
        · have e : r.val - i = (r.val - (i + 1)) + 1 := by omega
          by_cases h4 : r.val - (i + 1) < bs.length
          · rw [dif_pos ⟨h3, h4⟩, dif_pos ⟨by omega, by omega⟩]; simp [e]
          · rw [dif_neg (by omega), dif_neg (by omega)]
        · rw [dif_neg (by omega), dif_neg (by omega)]
    · rw [dif_neg (by omega)]

end Sys2Proof.Machine.State
end

