-- ==== Sys2Proof/Laws/Display.lean ====
section
/-! SUPPORT. What the XOR-plot of a sprite does to every pixel, and when it collides (43_display.md R181 to
R183). -/

namespace Sys2Proof.Machine

@[simp] theorem FrameBuffer.pixel_blank (x : Fin 64) (y : Fin 32) : FrameBuffer.blank.pixel x y = false := by
  simp [FrameBuffer.pixel, FrameBuffer.blank]

/-- Toggling turns the one pixel over and leaves the others (43_display.md R182). -/
theorem FrameBuffer.pixel_toggle (f : FrameBuffer) (x px : Fin 64) (y py : Fin 32) :
    (f.toggle x y).pixel px py = (f.pixel px py ^^ decide (px = x ∧ py = y)) := by
  simp only [FrameBuffer.toggle, FrameBuffer.pixel, Vector.getElem_set]
  by_cases hy : y.val = py.val
  · have : y = py := Fin.ext hy
    subst this
    by_cases hx : x.val = px.val
    · have : x = px := Fin.ext hx
      subst this; simp
    · have : px ≠ x := fun h => hx (by rw [h])
      simp [hx, this]
  · have : py ≠ y := fun h => hy (by rw [h])
    simp [hy, this]

@[simp] theorem Canvas.pixel_plot (c : Canvas) (x px : Fin 64) (y py : Fin 32) :
    (c.plot x y).fb.pixel px py = (c.fb.pixel px py ^^ decide (px = x ∧ py = y)) :=
  FrameBuffer.pixel_toggle ..

/-- Sprite column `col` of the row `row` falls on the pixel and its bit is set. -/
abbrev bitHits (vx vy b : Byte) (row col : Nat) (x : Fin 64) (y : Fin 32) : Prop :=
  spriteBit b col = true ∧ x = pixelX vx col ∧ y = pixelY vy row

theorem pixelX_inj {vx : Byte} {a b : Nat} (ha : a < 64) (hb : b < 64) (h : pixelX vx a = pixelX vx b) : a = b := by
  have := congrArg Fin.val h
  simp only [pixelX] at this
  omega

theorem pixelY_inj {vy : Byte} {a b : Nat} (ha : a < 32) (hb : b < 32) (h : pixelY vy a = pixelY vy b) : a = b := by
  have := congrArg Fin.val h
  simp only [pixelY] at this
  omega

/-- What one sprite row does: a pixel is turned over when one of the row's columns hits it, and the collision
bit is set when such a pixel was 1. The columns of one row are distinct pixels (43_display.md R182). -/
theorem Canvas.plotCols_spec (vx vy b : Byte) (row : Nat) (n : Nat) (hn : n ≤ 8) (c : Canvas) :
    (∀ x y, (Canvas.plotCols vx vy b row n c).fb.pixel x y =
      (c.fb.pixel x y ^^ decide (∃ col < n, bitHits vx vy b row col x y))) ∧
    ((Canvas.plotCols vx vy b row n c).collision = true ↔
      c.collision = true ∨ ∃ x y, c.fb.pixel x y = true ∧ ∃ col < n, bitHits vx vy b row col x y) := by
  induction n with
  | zero => simp [Canvas.plotCols]
  | succ n ih =>
    obtain ⟨ihp, ihc⟩ := ih (by omega)
    simp only [Canvas.plotCols, Nat.exists_lt_succ_right]
    by_cases hb : spriteBit b n = true
    · simp only [hb, if_true]
      have fresh : ¬ ∃ col < n, bitHits vx vy b row col (pixelX vx n) (pixelY vy row) := by
        rintro ⟨col, hc, -, h2, -⟩
        have := pixelX_inj (by omega) (by omega) h2
        omega
      refine ⟨fun x y => ?_, ?_⟩
      · rw [Canvas.pixel_plot, ihp]
        by_cases h : x = pixelX vx n ∧ y = pixelY vy row
        · obtain ⟨rfl, rfl⟩ := h
          have hit : bitHits vx vy b row n (pixelX vx n) (pixelY vy row) := ⟨hb, rfl, rfl⟩
          rw [decide_eq_false fresh, decide_eq_true (Or.inr hit)]; simp
        · have h2 : ¬ bitHits vx vy b row n x y := fun hh => h hh.2
          simp only [h, h2, decide_false, Bool.xor_false, or_false]
      · simp only [Canvas.plot, Bool.or_eq_true, ihc, ihp, fresh, decide_false, Bool.xor_false]
        constructor
        · rintro ((h | ⟨x, y, hp, hh⟩) | h)
          · exact .inl h
          · exact .inr ⟨x, y, hp, .inl hh⟩
          · exact .inr ⟨_, _, h, .inr ⟨hb, rfl, rfl⟩⟩
        · rintro (h | ⟨x, y, hp, hh | ⟨-, rfl, rfl⟩⟩)
          · exact .inl (.inl h)
          · exact .inl (.inr ⟨x, y, hp, hh⟩)
          · exact .inr hp
    · have h2 : ∀ x y, ¬ bitHits vx vy b row n x y := fun x y hh => hb hh.1
      simp only [h2, or_false, hb, Bool.false_eq_true, if_false]
      exact ⟨ihp, ihc⟩

/-- Row number `row + i` of the sprite, its byte `bytes[i]`, hits the pixel. -/
abbrev rowsHit (vx vy : Byte) (bytes : List Byte) (row : Nat) (x : Fin 64) (y : Fin 32) : Prop :=
  ∃ i b, bytes[i]? = some b ∧ ∃ col < 8, bitHits vx vy b (row + i) col x y

theorem rowsHit_cons (vx vy b : Byte) (bs : List Byte) (row : Nat) (x : Fin 64) (y : Fin 32) :
    rowsHit vx vy (b :: bs) row x y ↔
      (∃ col < 8, bitHits vx vy b row col x y) ∨ rowsHit vx vy bs (row + 1) x y := by
  constructor
  · rintro ⟨i, b', hi, h⟩
    cases i with
    | zero => simp at hi; subst hi; exact .inl h
    | succ i => exact .inr ⟨i, b', by simpa using hi, by rwa [show row + 1 + i = row + (i + 1) by omega]⟩
  · rintro (h | ⟨i, b', hi, h⟩)
    · exact ⟨0, b, rfl, h⟩
    · exact ⟨i + 1, b', by simpa using hi, by rwa [show row + (i + 1) = row + 1 + i by omega]⟩

open scoped Classical in
/-- What a whole sprite does: each pixel hit is turned over once, the collision bit is set when one of them
was 1. At most 32 rows are distinct modulo 32 (43_display.md R182), and no instruction word has more than 15. -/
theorem Canvas.plotRows_spec (vx vy : Byte) (bytes : List Byte) (row : Nat) (c : Canvas)
    (hn : row + bytes.length ≤ 32) :
    (∀ x y, (Canvas.plotRows vx vy row bytes c).fb.pixel x y =
      (c.fb.pixel x y ^^ decide (rowsHit vx vy bytes row x y))) ∧
    ((Canvas.plotRows vx vy row bytes c).collision = true ↔
      c.collision = true ∨ ∃ x y, c.fb.pixel x y = true ∧ rowsHit vx vy bytes row x y) := by
  induction bytes generalizing row c with
  | nil => simp [Canvas.plotRows, rowsHit]
  | cons b bs ih =>
    simp only [List.length_cons] at hn
    obtain ⟨cp, cc⟩ := Canvas.plotCols_spec vx vy b row 8 le_rfl c
    obtain ⟨rp, rc⟩ := ih (row + 1) (Canvas.plotCols vx vy b row 8 c) (by omega)
    have apart : ∀ x y, rowsHit vx vy bs (row + 1) x y → ¬ ∃ col < 8, bitHits vx vy b row col x y := by
      rintro x y ⟨i, b', hi, _, _, -, -, h1⟩ ⟨_, -, -, -, h2⟩
      have hl : i < bs.length := (List.getElem?_eq_some_iff.mp hi).1
      have := pixelY_inj (by omega) (by omega) (h1.symm.trans h2)
      omega
    simp only [Canvas.plotRows, rowsHit_cons]
    refine ⟨fun x y => ?_, ?_⟩
    · rw [rp, cp]
      by_cases h : rowsHit vx vy bs (row + 1) x y
      · simp only [h, apart x y h, decide_true, decide_false, Bool.xor_false, or_true]
      · simp only [h, decide_false, Bool.xor_false, or_false]
    · rw [rc, cc]
      constructor
      · rintro ((h | ⟨x, y, hp, hh⟩) | ⟨x, y, hp, hh⟩)
        · exact .inl h
        · exact .inr ⟨x, y, hp, .inl hh⟩
        · rw [cp] at hp
          simp only [apart x y hh, decide_false, Bool.xor_false] at hp
          exact .inr ⟨x, y, hp, .inr hh⟩
      · rintro (h | ⟨x, y, hp, hh | hh⟩)
        · exact .inl (.inl h)
        · exact .inl (.inr ⟨x, y, hp, hh⟩)
        · refine .inr ⟨x, y, ?_, hh⟩
          rw [cp]; simp only [apart x y hh, decide_false, Bool.xor_false, hp]

/-- The closed form: which pixels a sprite of at most 32 rows covers. -/
theorem rowsHit_iff_spriteCovers (vx vy : Byte) (bytes : List Byte) (hn : bytes.length ≤ 32) (x : Fin 64)
    (y : Fin 32) : rowsHit vx vy bytes 0 x y ↔ spriteCovers vx vy bytes x y = true := by
  simp only [spriteCovers, Bool.and_eq_true, decide_eq_true_eq]
  constructor
  · rintro ⟨i, b, hi, col, hc, hb, rfl, rfl⟩
    have hl : i < bytes.length := (List.getElem?_eq_some_iff.mp hi).1
    have ec : ((pixelX vx col).val + 64 - vx.toNat % 64) % 64 = col := by simp only [pixelX]; omega
    have er : ((pixelY vy (0 + i)).val + 32 - vy.toNat % 32) % 32 = i := by simp only [pixelY]; omega
    rw [ec, er, hi]
    exact ⟨hc, hb⟩
  · rintro ⟨hc, hb⟩
    split at hb
    · rename_i b hi
      refine ⟨_, b, hi, _, hc, hb, Fin.ext ?_, Fin.ext ?_⟩
      · simp only [pixelX]; have := x.isLt; omega
      · simp only [pixelY]; have := y.isLt; omega
    · exact absurd hb (by simp)

open scoped Classical in
/-- Drawing `n` rows, `n` at most 32: every pixel is its old value, turned over where the sprite covers it;
a collision is a covered pixel that was 1. -/
theorem State.drawing_spec (s : State) (x y : Reg) (n : Nat) (hn : n ≤ 32) :
    (∀ px py, (s.drawing x y n).fb.pixel px py =
      (s.pixel px py ^^ spriteCovers (s.reg x) (s.reg y) (s.readBytes (s.effAddr 0) n) px py)) ∧
    ((s.drawing x y n).collision = true ↔ ∃ px py, s.pixel px py = true ∧
      spriteCovers (s.reg x) (s.reg y) (s.readBytes (s.effAddr 0) n) px py = true) := by
  have hl : (s.readBytes (s.effAddr 0) n).length ≤ 32 := by simpa using hn
  obtain ⟨hp, hc⟩ := Canvas.plotRows_spec (s.reg x) (s.reg y) (s.readBytes (s.effAddr 0) n) 0 ⟨s.fb, false⟩
    (by simpa using hn)
  refine ⟨fun px py => ?_, ?_⟩
  · rw [State.drawing, hp, State.pixel]
    congr 1
    rw [Bool.eq_iff_iff, decide_eq_true_iff]
    exact rowsHit_iff_spriteCovers _ _ _ hl px py
  · rw [State.drawing, hc]
    simp only [Bool.false_eq_true, false_or, rowsHit_iff_spriteCovers _ _ _ hl]
    rfl

end Sys2Proof.Machine
end

