-- ==== Sys2Proof/Laws/Ops.lean ====
section
/-! SUPPORT. For each shared operation of the meanings, everything it can do; then the same for the
execute phase and for one event. Provers cite these instead of unfolding. -/

namespace Sys2Proof.Machine

/-! ### Primitives -/

theorem skipIf_true (s : State) : s.skipIf true = s.advancePc := rfl
theorem skipIf_false (s : State) : s.skipIf false = s := rfl

/-- A skip changes `PC` only (40_control.md R110). -/
theorem skipIf_eq (s : State) (c : Bool) : s.skipIf c = s.setPc (if c then s.pc + 2 else s.pc) := by
  cases c <;> rfl

@[simp] theorem effAddr_zero (s : State) : s.effAddr 0 = s.index.toNat := rfl

@[simp] theorem flagByte_le_one (b : Bool) : (flagByte b).toNat ≤ 1 := by cases b <;> decide

@[simp] theorem firstOutOfRange_toNat (w : Word) : (firstOutOfRange w).toNat = max w.toNat 0x1000 := by
  unfold firstOutOfRange; split <;> simp_all <;> omega

theorem outOfRange_iff (a : Nat) : outOfRange a = true ↔ 0xFFF < a := by
  simp [outOfRange]

/-- Undoing the fetch's advance gives the address of the instruction back. -/
@[simp] theorem advance_rewind (s : State) : s.advancePc.rewindPc = s := by
  simp [State.rewindPc, State.advancePc, State.setPc]

@[simp] theorem readByte_advancePc (s : State) (a : Nat) : s.advancePc.readByte a = s.readByte a := rfl

/-- In range, the read primitive is the byte (20_memory.md R54). -/
theorem memRead1_of_inRange (s : State) (a : Word) (h : a.toNat ≤ 0xFFF) :
    memRead1 s a = .ok (s.readByte a.toNat) := by
  have : ¬ 0xFFF < a.toNat := by omega
  simp [memRead1, outOfRange_iff, this]

/-- In range, the write primitive is the byte write (20_memory.md R55). -/
theorem memWrite1_of_inRange (s : State) (a : Word) (b : Byte) (h : a.toNat ≤ 0xFFF) :
    memWrite1 s a b = .ok (s.writeByte a.toNat b) := by
  have : ¬ 0xFFF < a.toNat := by omega
  simp [memWrite1, outOfRange_iff, this]

/-- The fetch gives the big-endian word at `PC`, or faults above 0xFFE (30_encoding.md R80). -/
theorem fetch_cases (s : State) :
    (s.pc.toNat ≤ 0xFFE ∧
      fetch s = .ok (wordOfBytes (s.readByte s.pc.toNat) (s.readByte (s.pc.toNat + 1)))) ∨
    (0xFFE < s.pc.toNat ∧ fetch s = .error (firstOutOfRange s.pc)) := by
  by_cases h : s.pc.toNat ≤ 0xFFE
  · have : ¬ 0xFFF < s.pc.toNat + 1 := by omega
    exact .inl ⟨h, by simp [fetch, memRead2, outOfRange_iff, this]⟩
  · have : 0xFFF < s.pc.toNat + 1 := by omega
    exact .inr ⟨by omega, by simp [fetch, memRead2, outOfRange_iff, this]⟩

/-- The word at `PC`, said by its bytes, is what the fetch gives. -/
theorem fetch_of_hasWordAtPc {s : State} {w : Word} (h : s.HasWordAtPc w) : fetch s = .ok w := by
  rcases fetch_cases s with ⟨-, hf⟩ | ⟨h1, -⟩
  · rw [hf]; congr 1
    apply BitVec.eq_of_toNat_eq
    rw [wordOfBytes_toNat]; exact h.2
  · have := h.1; omega

theorem keyOf_eq_some {b : Byte} {k : Key} : keyOf b = some k ↔ b.toNat = k.val := by
  unfold keyOf; split
  · simp [Fin.ext_iff]
  · have := k.isLt; simp; omega

theorem keyOf_eq_none {b : Byte} : keyOf b = none ↔ 15 < b.toNat := by
  unfold keyOf; split <;> simp <;> omega

/-- No key is pressed. -/
theorem lowestKey_eq_none (s : State) : s.lowestKey = none ↔ ∀ k, s.key k = false := by
  simp [State.lowestKey]

/-- The lowest pressed key. -/
theorem lowestKey_eq_some (s : State) (k : Key) :
    s.lowestKey = some k ↔ s.key k = true ∧ ∀ j < k, s.key j = false := by
  rw [State.lowestKey, List.find?_eq_some_iff_getElem]
  constructor
  · rintro ⟨hk, i, hi, rfl, hj⟩
    refine ⟨hk, fun j hjk => ?_⟩
    simp only [List.getElem_finRange, Fin.lt_def] at hjk
    have := hj j.val (by simpa using hjk)
    simpa using this
  · rintro ⟨hk, hj⟩
    refine ⟨hk, k.val, by simp, by simp, fun j hjk => ?_⟩
    simp only [List.getElem_finRange]
    simpa using hj ⟨j, by omega⟩ hjk

/-! ### The meanings' shared endings -/

/-- A faulting instruction: `FAULT` is written, `PC` goes back to the instruction, nothing else changes
(60_exceptions.md R222). -/
theorem takeFault_eq (c : FaultCode) (a : Word) (s : State) :
    takeFault c a s = .next { s with pc := s.pc - 2, fault := ⟨c, a⟩ } := rfl

/-- A range-checked access: the body, or the fault (20_memory.md R59). -/
theorem withRange_cases (c : FaultCode) (last : Nat) (s body : State) :
    (s.index.toNat + last ≤ 0xFFF ∧ withRange c last s body = .next body) ∨
    (0xFFF < s.index.toNat + last ∧ withRange c last s body = takeFault c (firstOutOfRange s.index) s) := by
  by_cases h : 0xFFF < s.index.toNat + last
  · exact .inr ⟨h, by simp [withRange, State.effAddr, outOfRange_iff, h]⟩
  · exact .inl ⟨by omega, by simp [withRange, State.effAddr, outOfRange_iff, h]⟩

/-- A skip on a key: the skip, or the fault (44_keys_timers.md R200, R201). -/
theorem skipOnKey_cases (want : Bool) (x : Reg) (s : State) :
    (∃ k : Key, (s.reg x).toNat = k.val ∧ skipOnKey want x s = .next (s.skipIf (s.key k == want))) ∨
    (15 < (s.reg x).toNat ∧
      skipOnKey want x s = takeFault .keyIndexFault ((s.reg x).zeroExtend 16) s) := by
  unfold skipOnKey
  cases h : keyOf (s.reg x) with
  | none => exact .inr ⟨keyOf_eq_none.mp h, rfl⟩
  | some k => exact .inl ⟨k, keyOf_eq_some.mp h, rfl⟩

/-- draw: the drawing, or the fault (43_display.md R183). -/
theorem execDraw_cases (x y : Reg) (n : Nat) (s : State) :
    ((n = 0 ∨ s.index.toNat + (n - 1) ≤ 0xFFF) ∧
      execDraw x y n s =
        .next ((s.setFb (s.drawing x y n).fb).setReg VF (flagByte (s.drawing x y n).collision))) ∨
    (0 < n ∧ 0xFFF < s.index.toNat + (n - 1) ∧
      execDraw x y n s = takeFault .loadFault (firstOutOfRange s.index) s) := by
  by_cases h : 0 < n ∧ 0xFFF < s.index.toNat + (n - 1)
  · exact .inr ⟨h.1, h.2, by simp [execDraw, State.spriteOutOfRange, State.effAddr, outOfRange_iff, h]⟩
  · refine .inl ⟨by omega, ?_⟩
    have : ¬ s.spriteOutOfRange n = true := by
      simpa [State.spriteOutOfRange, State.effAddr, outOfRange_iff] using h
    simp [execDraw, this]

/-! ### The execute phase as a whole -/

/-- Everything the execute phase can do to the parts no instruction reaches, and that it always answers a
next state: the parameters, the agenda, the keys, the diagnostic outputs and the result of `Load` stay. -/
theorem exec_spec (i : Instr) (s : State) :
    ∃ t, exec i s = .next t ∧ t.cfg = s.cfg ∧ t.agenda = s.agenda ∧ t.keys = s.keys ∧
      t.diagClass = s.diagClass ∧ t.diagUnrecognized = s.diagUnrecognized ∧
      t.loadError = s.loadError := by
  have fault : ∀ c a, ∃ t, takeFault c a s = .next t ∧ t.cfg = s.cfg ∧ t.agenda = s.agenda ∧ t.keys = s.keys ∧
      t.diagClass = s.diagClass ∧ t.diagUnrecognized = s.diagUnrecognized ∧
      t.loadError = s.loadError := fun c a =>
    ⟨_, rfl, rfl, rfl, rfl, rfl, rfl, rfl⟩
  cases i with
  | ret => simp only [exec, execRet]; split
           · exact fault _ _
           · exact ⟨_, rfl, rfl, rfl, rfl, rfl, rfl, rfl⟩
  | call nnn => simp only [exec, execCall]; split
                · exact fault _ _
                · exact ⟨_, rfl, rfl, rfl, rfl, rfl, rfl, rfl⟩
  | skipEqImm x nn => simp only [exec, execSkipEqImm, skipIf_eq]; exact ⟨_, rfl, rfl, rfl, rfl, rfl, rfl, rfl⟩
  | skipNeqImm x nn => simp only [exec, execSkipNeqImm, skipIf_eq]; exact ⟨_, rfl, rfl, rfl, rfl, rfl, rfl, rfl⟩
  | skipEqReg x y => simp only [exec, execSkipEqReg, skipIf_eq]; exact ⟨_, rfl, rfl, rfl, rfl, rfl, rfl, rfl⟩
  | skipNeqReg x y => simp only [exec, execSkipNeqReg, skipIf_eq]; exact ⟨_, rfl, rfl, rfl, rfl, rfl, rfl, rfl⟩
  | draw x y n =>
    rcases execDraw_cases x y n s with ⟨-, h⟩ | ⟨-, -, h⟩
    · exact ⟨_, h, rfl, rfl, rfl, rfl, rfl, rfl⟩
    · simp only [exec]; rw [h]; exact fault _ _
  | skipIfKey x =>
    rcases skipOnKey_cases true x s with ⟨k, -, h⟩ | ⟨-, h⟩
    · rw [skipIf_eq] at h; exact ⟨_, h, rfl, rfl, rfl, rfl, rfl, rfl⟩
    · simp only [exec, execSkipIfKey]; rw [h]; exact fault _ _
  | skipIfNotKey x =>
    rcases skipOnKey_cases false x s with ⟨k, -, h⟩ | ⟨-, h⟩
    · rw [skipIf_eq] at h; exact ⟨_, h, rfl, rfl, rfl, rfl, rfl, rfl⟩
    · simp only [exec, execSkipIfNotKey]; rw [h]; exact fault _ _
  | waitForKey x =>
    simp only [exec, execWaitForKey]; split <;> exact ⟨_, rfl, rfl, rfl, rfl, rfl, rfl, rfl⟩
  | bcdStore x =>
    simp only [exec, execBcdStore]
    rcases withRange_cases .storeFault 2 s (s.writeBytes (s.effAddr 0) (bcdDigits (s.reg x))) with ⟨-, h⟩ | ⟨-, h⟩
    · exact ⟨_, h, by simp, by simp, by simp, by simp, by simp, by simp⟩
    · rw [h]; exact fault _ _
  | regDump x =>
    simp only [exec, execRegDump]
    rcases withRange_cases .storeFault x.val s (s.writeBytes (s.effAddr 0) (s.regBlock x)) with ⟨-, h⟩ | ⟨-, h⟩
    · exact ⟨_, h, by simp, by simp, by simp, by simp, by simp, by simp⟩
    · rw [h]; exact fault _ _
  | regLoad x =>
    simp only [exec, execRegLoad]
    rcases withRange_cases .loadFault x.val s (s.loadRegs 0 (s.readBytes (s.effAddr 0) (x.val + 1)))
      with ⟨-, h⟩ | ⟨-, h⟩
    · refine ⟨_, h, ?_⟩
      rw [State.loadRegs_eq]; exact ⟨rfl, rfl, rfl, rfl, rfl, rfl⟩
    · rw [h]; exact fault _ _
  | _ => exact ⟨_, rfl, rfl, rfl, rfl, rfl, rfl, rfl⟩

end Sys2Proof.Machine
end

