-- ==== Sys2Proof/Laws/Cycle.lean ====
section
/-! SUPPORT. Everything one instruction cycle and one event can do. -/

namespace Sys2Proof.Machine

/-- The core is halted or it runs. -/
theorem halted_iff (s : State) : s.halted = true ↔ s.GoneWrong := by
  simp [State.halted, State.GoneWrong, State.Running]

theorem not_halted_iff (s : State) : s.halted = false ↔ s.Running := by
  simp [State.halted, State.Running]

/-- The word the fetch reads at `PC`. -/
abbrev State.wordAtPc (s : State) : Word := wordOfBytes (s.readByte s.pc.toNat) (s.readByte (s.pc.toNat + 1))

theorem hasWordAtPc_iff (s : State) (w : Word) : s.HasWordAtPc w ↔ s.pc.toNat ≤ 0xFFE ∧ s.wordAtPc = w := by
  refine and_congr_right fun _ => ?_
  rw [← BitVec.toNat_inj, wordOfBytes_toNat]

/-- The cycle's four ways (30_encoding.md R80, R86; 60_exceptions.md R222, R223). -/
theorem cycle_cases (s : State) :
    (s.GoneWrong ∧ cycle s = .next s) ∨
    (s.Running ∧ 0xFFE < s.pc.toNat ∧ cycle s = .next (s.recordFault .fetchFault (firstOutOfRange s.pc))) ∨
    (s.Running ∧ s.pc.toNat ≤ 0xFFE ∧ (∀ i, decodeWord s.wordAtPc ≠ .ok i) ∧
      cycle s = .next (s.advancePc.noteDiag s.wordAtPc true)) ∨
    (s.Running ∧ s.pc.toNat ≤ 0xFFE ∧ ∃ i t, decodeWord s.wordAtPc = .ok i ∧ exec i s.advancePc = .next t ∧
      cycle s = .next (if t.halted then t else t.noteDiag s.wordAtPc false)) := by
  cases hh : s.halted with
  | true => exact .inl ⟨(halted_iff s).mp hh, by simp [cycle, hh]⟩
  | false =>
    have hr := (not_halted_iff s).mp hh
    rcases fetch_cases s with ⟨hp, hf⟩ | ⟨hp, hf⟩
    · cases hd : decodeWord s.wordAtPc with
      | error r => exact .inr (.inr (.inl ⟨hr, hp, by simp, by simp [cycle, hh, hf, executeWord, hd]⟩))
      | ok i =>
        obtain ⟨t, ht, -⟩ := exec_spec i s.advancePc
        refine .inr (.inr (.inr ⟨hr, hp, i, t, rfl, ht, ?_⟩))
        simp only [cycle, hh, hf, executeWord, hd, ht, finishCycle]
        cases t.halted <;> rfl
    · exact .inr (.inl ⟨hr, hp, by simp [cycle, hh, hf]⟩)

/-- A cycle always answers a next state and keeps the parameters, the agenda, the keys and the result of `Load`. -/
theorem cycle_spec (s : State) :
    ∃ t, cycle s = .next t ∧ t.cfg = s.cfg ∧ t.agenda = s.agenda ∧ t.keys = s.keys ∧
      t.loadError = s.loadError := by
  rcases cycle_cases s with ⟨-, h⟩ | ⟨-, -, h⟩ | ⟨-, -, -, h⟩ | ⟨-, -, i, t, -, he, h⟩
  · exact ⟨_, h, rfl, rfl, rfl, rfl⟩
  · exact ⟨_, h, rfl, rfl, rfl, rfl⟩
  · exact ⟨_, h, rfl, rfl, rfl, rfl⟩
  · obtain ⟨t', ht', hc, ha, hk, -, -, hl⟩ := exec_spec i s.advancePc
    obtain rfl : t' = t := by rw [ht'] at he; exact Host.Outcome.next.inj he
    refine ⟨_, h, ?_⟩
    cases t'.halted <;> exact ⟨hc, ha, hk, hl⟩

/-! ### The step, by the head of the agenda -/

section
variable (s : State) (rest : List HostEvent)

theorem step_of_agenda_nil (h : s.agenda = []) : step s = cycle s := by simp [step, nextEvent, h]

theorem step_of_agenda_cons (e : HostEvent) (h : s.agenda = e :: rest) :
    step s = hostEvent e (s.setAgenda rest) := by simp [step, nextEvent, h]

theorem step_reset : step (s.setAgenda (.reset :: rest)) = .next (s.afterReset.setAgenda rest) := rfl
theorem step_load (bytes : List Byte) :
    step (s.setAgenda (.load bytes :: rest)) = .next ((s.setAgenda rest).loadProgram bytes) := rfl
theorem step_cycle : step (s.setAgenda (.cycle :: rest)) = cycle (s.setAgenda rest) := rfl
theorem step_tick : step (s.setAgenda (.tick :: rest)) = .next (s.tick.setAgenda rest) := rfl
theorem step_keyWrite (k : Key) (b : Bool) :
    step (s.setAgenda (.keyWrite k b :: rest)) = .next ((s.keyWrite k b).setAgenda rest) := rfl
end

/-- One tick of one timer (60_exceptions.md R229). -/
@[simp] theorem countDown_toNat (t : Byte) : (countDown t).toNat = t.toNat - 1 := by
  unfold countDown
  split
  · rw [BitVec.toNat_sub_of_le] <;> simp [BitVec.le_def]; omega
  · simp; omega

end Sys2Proof.Machine
end

