-- ==== Sys2Proof/Laws/PerInstr.lean ====
section
/-! SUPPORT. One lemma per instruction: its canonical word is a word of its row of the opcode map, and its
row is one of the 34 (30_encoding.md R85). -/

namespace Sys2Proof.Laws.EncodesRow

/-- The encoded word matches the row, which is a row of the map. -/
def Statement (i : Instr) : Prop :=
  encodeWord i &&& (rowOf i).mask = (rowOf i).pattern ∧ rowOf i ∈ opcodeMap

theorem clearScreen : Statement (.clearScreen) :=
  ⟨rfl, show rowOf (.clearScreen) ∈ opcodeMap by decide⟩
theorem ret : Statement (.ret) :=
  ⟨rfl, show rowOf (.ret) ∈ opcodeMap by decide⟩
theorem jump (nnn : Addr12) : Statement (.jump nnn) :=
  ⟨(and_F000 _ _).mpr (classOf_wordOPA ..), show rowOf (.jump 0) ∈ opcodeMap by decide⟩
theorem call (nnn : Addr12) : Statement (.call nnn) :=
  ⟨(and_F000 _ _).mpr (classOf_wordOPA ..), show rowOf (.call 0) ∈ opcodeMap by decide⟩
theorem skipEqImm (x : Reg) (nn : Byte) : Statement (.skipEqImm x nn) :=
  ⟨(and_F000 _ _).mpr (classOf_wordOPI ..), show rowOf (.skipEqImm 0 0) ∈ opcodeMap by decide⟩
theorem skipNeqImm (x : Reg) (nn : Byte) : Statement (.skipNeqImm x nn) :=
  ⟨(and_F000 _ _).mpr (classOf_wordOPI ..), show rowOf (.skipNeqImm 0 0) ∈ opcodeMap by decide⟩
theorem skipEqReg (x : Reg) (y : Reg) : Statement (.skipEqReg x y) :=
  ⟨(and_F000 _ _).mpr (classOf_wordOPR ..), show rowOf (.skipEqReg 0 0) ∈ opcodeMap by decide⟩
theorem loadImm (x : Reg) (nn : Byte) : Statement (.loadImm x nn) :=
  ⟨(and_F000 _ _).mpr (classOf_wordOPI ..), show rowOf (.loadImm 0 0) ∈ opcodeMap by decide⟩
theorem addImm (x : Reg) (nn : Byte) : Statement (.addImm x nn) :=
  ⟨(and_F000 _ _).mpr (classOf_wordOPI ..), show rowOf (.addImm 0 0) ∈ opcodeMap by decide⟩
theorem setReg (x : Reg) (y : Reg) : Statement (.setReg x y) :=
  ⟨(and_F00F _ _ _).mpr ⟨classOf_wordOPR .., fieldN_wordOPR ..⟩, show rowOf (.setReg 0 0) ∈ opcodeMap by decide⟩
theorem orReg (x : Reg) (y : Reg) : Statement (.orReg x y) :=
  ⟨(and_F00F _ _ _).mpr ⟨classOf_wordOPR .., fieldN_wordOPR ..⟩, show rowOf (.orReg 0 0) ∈ opcodeMap by decide⟩
theorem andReg (x : Reg) (y : Reg) : Statement (.andReg x y) :=
  ⟨(and_F00F _ _ _).mpr ⟨classOf_wordOPR .., fieldN_wordOPR ..⟩, show rowOf (.andReg 0 0) ∈ opcodeMap by decide⟩
theorem xorReg (x : Reg) (y : Reg) : Statement (.xorReg x y) :=
  ⟨(and_F00F _ _ _).mpr ⟨classOf_wordOPR .., fieldN_wordOPR ..⟩, show rowOf (.xorReg 0 0) ∈ opcodeMap by decide⟩
theorem addReg (x : Reg) (y : Reg) : Statement (.addReg x y) :=
  ⟨(and_F00F _ _ _).mpr ⟨classOf_wordOPR .., fieldN_wordOPR ..⟩, show rowOf (.addReg 0 0) ∈ opcodeMap by decide⟩
theorem subReg (x : Reg) (y : Reg) : Statement (.subReg x y) :=
  ⟨(and_F00F _ _ _).mpr ⟨classOf_wordOPR .., fieldN_wordOPR ..⟩, show rowOf (.subReg 0 0) ∈ opcodeMap by decide⟩
theorem shr (x : Reg) : Statement (.shr x) :=
  ⟨(and_F00F _ _ _).mpr ⟨classOf_wordOPR .., fieldN_wordOPR ..⟩, show rowOf (.shr 0) ∈ opcodeMap by decide⟩
theorem subnReg (x : Reg) (y : Reg) : Statement (.subnReg x y) :=
  ⟨(and_F00F _ _ _).mpr ⟨classOf_wordOPR .., fieldN_wordOPR ..⟩, show rowOf (.subnReg 0 0) ∈ opcodeMap by decide⟩
theorem shl (x : Reg) : Statement (.shl x) :=
  ⟨(and_F00F _ _ _).mpr ⟨classOf_wordOPR .., fieldN_wordOPR ..⟩, show rowOf (.shl 0) ∈ opcodeMap by decide⟩
theorem skipNeqReg (x : Reg) (y : Reg) : Statement (.skipNeqReg x y) :=
  ⟨(and_F000 _ _).mpr (classOf_wordOPR ..), show rowOf (.skipNeqReg 0 0) ∈ opcodeMap by decide⟩
theorem setIndex (nnn : Addr12) : Statement (.setIndex nnn) :=
  ⟨(and_F000 _ _).mpr (classOf_wordOPA ..), show rowOf (.setIndex 0) ∈ opcodeMap by decide⟩
theorem jumpOffset (nnn : Addr12) : Statement (.jumpOffset nnn) :=
  ⟨(and_F000 _ _).mpr (classOf_wordOPA ..), show rowOf (.jumpOffset 0) ∈ opcodeMap by decide⟩
theorem random (x : Reg) (nn : Byte) : Statement (.random x nn) :=
  ⟨(and_F000 _ _).mpr (classOf_wordOPI ..), show rowOf (.random 0 0) ∈ opcodeMap by decide⟩
theorem draw (x : Reg) (y : Reg) (n : Nat) : Statement (.draw x y n) :=
  ⟨(and_F000 _ _).mpr (classOf_wordOPR ..), show rowOf (.draw 0 0 0) ∈ opcodeMap by decide⟩
theorem skipIfKey (x : Reg) : Statement (.skipIfKey x) :=
  ⟨(and_F0FF _ _ _).mpr ⟨classOf_wordOPI .., fieldNN_wordOPI ..⟩, show rowOf (.skipIfKey 0) ∈ opcodeMap by decide⟩
theorem skipIfNotKey (x : Reg) : Statement (.skipIfNotKey x) :=
  ⟨(and_F0FF _ _ _).mpr ⟨classOf_wordOPI .., fieldNN_wordOPI ..⟩, show rowOf (.skipIfNotKey 0) ∈ opcodeMap by decide⟩
theorem getDelay (x : Reg) : Statement (.getDelay x) :=
  ⟨(and_F0FF _ _ _).mpr ⟨classOf_wordOPI .., fieldNN_wordOPI ..⟩, show rowOf (.getDelay 0) ∈ opcodeMap by decide⟩
theorem waitForKey (x : Reg) : Statement (.waitForKey x) :=
  ⟨(and_F0FF _ _ _).mpr ⟨classOf_wordOPI .., fieldNN_wordOPI ..⟩, show rowOf (.waitForKey 0) ∈ opcodeMap by decide⟩
theorem setDelay (x : Reg) : Statement (.setDelay x) :=
  ⟨(and_F0FF _ _ _).mpr ⟨classOf_wordOPI .., fieldNN_wordOPI ..⟩, show rowOf (.setDelay 0) ∈ opcodeMap by decide⟩
theorem setSound (x : Reg) : Statement (.setSound x) :=
  ⟨(and_F0FF _ _ _).mpr ⟨classOf_wordOPI .., fieldNN_wordOPI ..⟩, show rowOf (.setSound 0) ∈ opcodeMap by decide⟩
theorem addIndex (x : Reg) : Statement (.addIndex x) :=
  ⟨(and_F0FF _ _ _).mpr ⟨classOf_wordOPI .., fieldNN_wordOPI ..⟩, show rowOf (.addIndex 0) ∈ opcodeMap by decide⟩
theorem fontChar (x : Reg) : Statement (.fontChar x) :=
  ⟨(and_F0FF _ _ _).mpr ⟨classOf_wordOPI .., fieldNN_wordOPI ..⟩, show rowOf (.fontChar 0) ∈ opcodeMap by decide⟩
theorem bcdStore (x : Reg) : Statement (.bcdStore x) :=
  ⟨(and_F0FF _ _ _).mpr ⟨classOf_wordOPI .., fieldNN_wordOPI ..⟩, show rowOf (.bcdStore 0) ∈ opcodeMap by decide⟩
theorem regDump (x : Reg) : Statement (.regDump x) :=
  ⟨(and_F0FF _ _ _).mpr ⟨classOf_wordOPI .., fieldNN_wordOPI ..⟩, show rowOf (.regDump 0) ∈ opcodeMap by decide⟩
theorem regLoad (x : Reg) : Statement (.regLoad x) :=
  ⟨(and_F0FF _ _ _).mpr ⟨classOf_wordOPI .., fieldNN_wordOPI ..⟩, show rowOf (.regLoad 0) ∈ opcodeMap by decide⟩

end Sys2Proof.Laws.EncodesRow
end

