-- ==== Sys2Proof/Tests/Slice0.lean ====
section
/-! SUPPORT. The model's own tests. Expected values are those of spec/95_test_vectors.md (the vector or program
is named) or are worked out from the rule named. Then, for every statement of
Certificates/Slice0/Obligations.lean with hypotheses, a witness that meets them. -/

namespace Sys2Proof.Tests

open Sys2Proof Sys2Proof.Machine

/-! ### Helpers -/

/-- The next state, if there is one. -/
def nextOf : Result → Option State
  | .next t => some t
  | .fault _ => none
  | .refused _ => none

/-- One step on the word `w`, placed where the step fetches. -/
def one (s : State) (w : Nat) : Option State := nextOf (step (s.withFetchWord 16 w))

/-- One step whose event is `e`. -/
def event (s : State) (e : HostEvent) : Option State := nextOf (step (s.setAgenda [e]))

/-- After reset, with `V[1]` and `V[2]` given and VF = 0x55, a value no flag has. -/
def regs12 (a b : Byte) : State := ((State.reset.setReg 1 a).setReg 2 b).setReg VF 0x55

/-- After reset, with one register and `I` given. -/
def regAndIndex (x : Reg) (a : Byte) (i : Word) : State := (State.reset.setReg x a).setIndex i

/-- `V[1]`, VF and `PC`. -/
def v1vf (t : State) : Byte × Byte × Word := (t.reg 1, t.reg VF, t.pc)

/-- The fault and `PC`. -/
def faultPc (t : State) : FaultCode × Word × Word := (t.fault.code, t.fault.addr, t.pc)

/-- Three bytes of memory. -/
def bytes3 (t : State) (a : Nat) : List Byte := t.readBytes a 3

/-! ### Well-formed terms -/

/-- 30_encoding.md R83: `N` is 0 to 15, and 16 rows are refused. -/
theorem test_wellFormed_row_count :
    (Instr.draw 1 2 15).wellFormed = true ∧ (Instr.draw 1 2 16).wellFormed = false := by decide

/-! ### Decoding: the words of 95_test_vectors.md 2.1 and of its worked examples, one per row -/

theorem test_decode_clear_screen : decodeWord 0x00E0 = .ok (.clearScreen) := by decide
theorem test_decode_return : decodeWord 0x00EE = .ok (.ret) := by decide
theorem test_decode_jump : decodeWord 0x1ABC = .ok (.jump 0xABC) := by decide
theorem test_decode_call : decodeWord 0x2ABC = .ok (.call 0xABC) := by decide
theorem test_decode_skip_eq_imm : decodeWord 0x332A = .ok (.skipEqImm 3 0x2A) := by decide
theorem test_decode_skip_neq_imm : decodeWord 0x432A = .ok (.skipNeqImm 3 0x2A) := by decide
theorem test_decode_skip_eq_reg : decodeWord 0x5127 = .ok (.skipEqReg 1 2) := by decide
theorem test_decode_load_imm : decodeWord 0x6A02 = .ok (.loadImm 10 0x02) := by decide
theorem test_decode_add_imm : decodeWord 0x7A03 = .ok (.addImm 10 0x03) := by decide
theorem test_decode_set : decodeWord 0x8120 = .ok (.setReg 1 2) := by decide
theorem test_decode_or : decodeWord 0x8121 = .ok (.orReg 1 2) := by decide
theorem test_decode_and : decodeWord 0x8122 = .ok (.andReg 1 2) := by decide
theorem test_decode_xor : decodeWord 0x8123 = .ok (.xorReg 1 2) := by decide
theorem test_decode_add : decodeWord 0x8124 = .ok (.addReg 1 2) := by decide
theorem test_decode_sub : decodeWord 0x8125 = .ok (.subReg 1 2) := by decide
theorem test_decode_shr : decodeWord 0x81F6 = .ok (.shr 1) := by decide
theorem test_decode_subn : decodeWord 0x8127 = .ok (.subnReg 1 2) := by decide
theorem test_decode_shl : decodeWord 0x812E = .ok (.shl 1) := by decide
theorem test_decode_skip_neq_reg : decodeWord 0x9AB5 = .ok (.skipNeqReg 10 11) := by decide
theorem test_decode_set_index : decodeWord 0xA300 = .ok (.setIndex 0x300) := by decide
theorem test_decode_jump_offset : decodeWord 0xBFFF = .ok (.jumpOffset 0xFFF) := by decide
theorem test_decode_random : decodeWord 0xC10F = .ok (.random 1 0x0F) := by decide
theorem test_decode_draw : decodeWord 0xDF1E = .ok (.draw 15 1 14) := by decide
theorem test_decode_skip_if_key : decodeWord 0xE19E = .ok (.skipIfKey 1) := by decide
theorem test_decode_skip_if_not_key : decodeWord 0xE1A1 = .ok (.skipIfNotKey 1) := by decide
theorem test_decode_get_delay : decodeWord 0xF107 = .ok (.getDelay 1) := by decide
theorem test_decode_wait_for_key : decodeWord 0xF10A = .ok (.waitForKey 1) := by decide
theorem test_decode_set_delay : decodeWord 0xF115 = .ok (.setDelay 1) := by decide
theorem test_decode_set_sound : decodeWord 0xF118 = .ok (.setSound 1) := by decide
theorem test_decode_add_index : decodeWord 0xF11E = .ok (.addIndex 1) := by decide
theorem test_decode_font_char : decodeWord 0xF129 = .ok (.fontChar 1) := by decide
theorem test_decode_bcd_store : decodeWord 0xF133 = .ok (.bcdStore 1) := by decide
theorem test_decode_reg_dump : decodeWord 0xF155 = .ok (.regDump 1) := by decide
theorem test_decode_reg_load : decodeWord 0xF165 = .ok (.regLoad 1) := by decide

/-- V-E3 to V-E7. -/
theorem test_decode_class0_unrecognized :
    ([0x0000#16, 0x00E1, 0x01E0, 0x0123, 0x00FD, 0x0FEE].all fun w => decide (decodeWord w = .error (.unrecognized w))) = true := by decide

/-- V-E14. -/
theorem test_decode_class8_unrecognized :
    ([0x8128#16, 0x8129, 0x812A, 0x812B, 0x812C, 0x812D, 0x812F].all fun w => decide (decodeWord w = .error (.unrecognized w))) = true := by decide

/-- V-E19, V-E21. -/
theorem test_decode_classEF_unrecognized :
    ([0xE19F#16, 0xE100, 0xE1FF, 0xF100, 0xF101, 0xF175, 0xF185, 0xF1FF].all fun w => decide (decodeWord w = .error (.unrecognized w))) = true := by decide

/-- 20_memory.md R56: the byte at the lower address is the high one; too few bytes are no word. -/
theorem test_decode_bytes :
    decode [0x6A, 0x02, 0x7A] = .ok (.loadImm 10 0x02, [0x7A]) ∧ decode [0x6A] = .error .truncated := by decide

theorem test_decodeTableWord : decodeTableWord 16 0x6A02 = some (.loadImm 10 0x02) ∧
    decodeTableWord 16 0x8128 = none := by decide

/-- Words of 30_encoding.md R85 with ignored fields 0. -/
theorem test_encode : encode (.loadImm 10 0x02) = [0x6A, 0x02] ∧ encode (.shr 1) = [0x81, 0x06] ∧
    encode (.draw 1 2 15) = [0xD1, 0x2F] ∧ encode (.skipNeqReg 10 11) = [0x9A, 0xB0] ∧
    encode (.jump 0x200) = [0x12, 0x00] := by decide

/-! ### Control transfer (2.3) -/

/-- V-C1. -/
theorem test_jump_self : (one State.reset 0x1200).map (·.pc) = some 0x200 := by decide
/-- V-C2. -/
theorem test_call : (one State.reset 0x2ABC).map (fun t => (t.stack[0]?, t.sp, t.pc)) =
    some (some 0x202, 1, 0xABC) := by decide
/-- V-C5, the 17th call. -/
theorem test_call_overflow : (one { State.reset with sp := 16 } 0x2200).map (fun t => (faultPc t, t.sp)) =
    some ((.stackOverflow, 0, 0x200), 16) := by decide
/-- V-C3. -/
theorem test_return : (one ((State.reset.push 0x202).setPc 0xABC) 0x00EE).map (fun t => (t.sp, t.pc)) =
    some (0, 0x202) := by decide
/-- V-C4. -/
theorem test_return_underflow : (one State.reset 0x00EE).map (fun t => (faultPc t, t.sp)) =
    some ((.stackUnderflow, 0, 0x200), 0) := by decide
/-- V-C6, V-C7. -/
theorem test_skip_eq_imm : (one (State.reset.setReg 3 0x2A) 0x332A).map (·.pc) = some 0x204 ∧
    (one (State.reset.setReg 3 0x2B) 0x332A).map (·.pc) = some 0x202 := by decide
/-- V-C8, V-C9. -/
theorem test_skip_neq_imm : (one (State.reset.setReg 3 0x2A) 0x432A).map (·.pc) = some 0x202 ∧
    (one (State.reset.setReg 3 0x2B) 0x432A).map (·.pc) = some 0x204 := by decide
/-- V-C10, V-C11. -/
theorem test_skip_eq_reg : (one (regs12 7 7) 0x5120).map (·.pc) = some 0x204 ∧
    (one (regs12 7 8) 0x5120).map (·.pc) = some 0x202 := by decide
/-- V-C10, V-C11. -/
theorem test_skip_neq_reg : (one (regs12 7 7) 0x9120).map (·.pc) = some 0x202 ∧
    (one (regs12 7 8) 0x9120).map (·.pc) = some 0x204 := by decide
/-- V-C13. -/
theorem test_jump_offset : (one ((State.reset.setReg 0 4).setReg 3 0x80) 0xB300).map (·.pc) = some 0x304 := by
  decide
/-- V-C14: not reduced modulo 4096. -/
theorem test_jump_offset_leaves_memory : (one (State.reset.setReg 0 0xFF) 0xBFFF).map faultPc =
    some (.noFault, 0, 0x10FE) := by decide
/-- V-C15. -/
theorem test_skip_at_top : (one (State.reset.setPc 0xFFE) 0x3000).map (·.pc) = some 0x1002 := by decide

/-! ### Immediate, ALU, random (2.4) -/

/-- V-A1. -/
theorem test_load_imm : (one (regs12 1 2) 0x6155).map v1vf = some (0x55, 0x55, 0x202) := by decide
/-- V-A3. -/
theorem test_add_imm_wraps : (one (regs12 5 2) 0x71FF).map v1vf = some (4, 0x55, 0x202) := by decide
/-- V-A50. -/
theorem test_add_imm_flag_register : (one (State.reset.setReg VF 0xFF) 0x7F01).map (·.reg VF) = some 0 := by decide
/-- V-A4. -/
theorem test_set : (one (regs12 0x11 0x22) 0x8120).map v1vf = some (0x22, 0x55, 0x202) := by decide
/-- V-A48. -/
theorem test_set_flag_register : (one (regs12 0x77 0) 0x8F10).map (·.reg VF) = some 0x77 := by decide
/-- V-A5. -/
theorem test_or : (one (regs12 0x0F 0xF0) 0x8121).map v1vf = some (0xFF, 0x55, 0x202) := by decide
/-- V-A49. -/
theorem test_or_flag_register : (one ((regs12 0x80 0).setReg VF 1) 0x8F11).map (·.reg VF) = some 0x81 := by decide
/-- V-A6. -/
theorem test_and : (one (regs12 0x3C 0x0F) 0x8122).map v1vf = some (0x0C, 0x55, 0x202) := by decide
/-- V-A7. -/
theorem test_xor : (one (regs12 0xFF 0x0F) 0x8123).map v1vf = some (0xF0, 0x55, 0x202) := by decide
/-- V-A52. -/
theorem test_xor_self : (one (regs12 0xA7 0) 0x8113).map v1vf = some (0, 0x55, 0x202) := by decide
/-- V-A11, V-A13. -/
theorem test_add : (one (regs12 0x80 0x7F) 0x8124).map v1vf = some (0xFF, 0, 0x202) ∧
    (one (regs12 0xC8 0x64) 0x8124).map v1vf = some (0x2C, 1, 0x202) := by decide
/-- V-A40, V-A42: VF as destination and as source. -/
theorem test_add_flag_register :
    (one ((regs12 0x20 0).setReg VF 0xF0) 0x8F14).map (·.reg VF) = some 1 ∧
    (one ((regs12 0xFF 0).setReg VF 1) 0x81F4).map v1vf = some (0, 1, 0x202) := by decide
/-- V-A15, V-A16. -/
theorem test_sub : (one (regs12 5 0x0A) 0x8125).map v1vf = some (0xFB, 0, 0x202) ∧
    (one (regs12 7 7) 0x8125).map v1vf = some (0, 1, 0x202) := by decide
/-- V-A47. -/
theorem test_sub_flag_register : (one ((regs12 6 0).setReg VF 5) 0x8F15).map (·.reg VF) = some 0 := by decide
/-- V-A20, V-A21. -/
theorem test_subn : (one (regs12 5 0x0A) 0x8127).map v1vf = some (5, 1, 0x202) ∧
    (one (regs12 0x0A 5) 0x8127).map v1vf = some (0xFB, 0, 0x202) := by decide
/-- V-A22. -/
theorem test_subn_equal : (one (regs12 7 7) 0x8127).map v1vf = some (0, 1, 0x202) := by decide
/-- V-A26, V-A28: `Y` plays no part. -/
theorem test_shr : (one (regs12 0xFF 0) 0x8106).map v1vf = some (0x7F, 1, 0x202) ∧
    (one (regs12 0xAA 1) 0x8126).map v1vf = some (0x55, 0, 0x202) := by decide
/-- V-A44. -/
theorem test_shr_flag_register : (one (State.reset.setReg VF 2) 0x8F06).map (·.reg VF) = some 0 := by decide
/-- V-A30, V-A33: `Y` plays no part. -/
theorem test_shl : (one (regs12 0x80 0) 0x810E).map v1vf = some (0, 1, 0x202) ∧
    (one (regs12 0x55 0xFF) 0x812E).map v1vf = some (0xAA, 0, 0x202) := by decide
/-- V-A45. -/
theorem test_shl_flag_register : (one (State.reset.setReg VF 0x7F) 0x8F0E).map (·.reg VF) = some 0 := by decide
/-- V-A34: what random does when the input byte is 0xB7. -/
theorem test_random : v1vf (randomWith 0xB7 1 0x0F (regs12 9 0)) = (0x07, 0x55, 0x200) := by decide
/-- V-A35: a mask of 0 gives 0 whatever the input. -/
theorem test_random_mask_zero (rnd : Byte) : (randomWith rnd 1 0 State.reset).reg 1 = 0 := by
  show rnd &&& 0 = 0; simp

/-! ### Index register and memory (2.5) -/

/-- V-I2. -/
theorem test_set_index : (one State.reset 0xAFFF).map (·.index) = some 0x0FFF := by decide
/-- V-I4, V-I5. -/
theorem test_add_index : (one (regAndIndex 2 1 0x0FFF) 0xF21E).map (·.index) = some 0x1000 ∧
    (one (regAndIndex 2 2 0xFFFF) 0xF21E).map (·.index) = some 0x0001 := by decide
/-- V-I7, V-I9. -/
theorem test_font_char : (one (State.reset.setReg 0 0x0F) 0xF029).map (·.index) = some 0x009B ∧
    (one (State.reset.setReg 0 0xFF) 0xF029).map (·.index) = some 0x054B := by decide
/-- V-I15. -/
theorem test_bcd_store : (one (regAndIndex 0 0xFE 0x300) 0xF033).map (bytes3 · 0x300) = some [2, 5, 4] := by decide
/-- V-I16, V-I17. -/
theorem test_bcd_store_top : (one (regAndIndex 0 0xFF 0xFFD) 0xF033).map (bytes3 · 0xFFD) = some [2, 5, 5] ∧
    (one (regAndIndex 0 0xFF 0xFFE) 0xF033).map (fun t => (faultPc t, bytes3 t 0xFFD)) =
      some ((.storeFault, 0x1000, 0x200), [0, 0, 0]) := by decide
/-- V-I18. -/
theorem test_reg_dump :
    (one (((regAndIndex 0 0xAA 0x400).setReg 1 0xBB).setReg 2 0xCC) 0xF155).map
      (fun t => (bytes3 t 0x400, t.index)) = some ([0xAA, 0xBB, 0], 0x400) := by decide
/-- V-I19, V-I20. -/
theorem test_reg_dump_top : (one (regAndIndex 0 0x12 0xFFF) 0xF055).map (·.readByte 0xFFF) = some 0x12 ∧
    (one (regAndIndex 0 0x12 0xFFF) 0xF155).map (fun t => (faultPc t, t.readByte 0xFFF)) =
      some ((.storeFault, 0x1000, 0x200), 0) := by decide
/-- V-I22. -/
theorem test_reg_load :
    (one (((regAndIndex 3 0x33 0x300).writeBytes 0x300 [2, 5, 4, 9])) 0xF265).map
      (fun t => (t.reg 0, t.reg 1, t.reg 2, t.reg 3, t.index)) = some (2, 5, 4, 0x33, 0x300) := by decide
/-- V-I23, V-I25. -/
theorem test_reg_load_faults : (one (regAndIndex 0 1 0x0FF1) 0xFF65).map (fun t => (faultPc t, t.reg 0)) =
      some ((.loadFault, 0x1000, 0x200), 1) ∧
    (one (regAndIndex 0 1 0x2345) 0xF065).map faultPc = some (.loadFault, 0x2345, 0x200) := by decide

/-! ### Display (2.6) -/

/-- After reset, with `V[1]`, `V[2]`, VF = 0x55 and sprite bytes at `I` = 0x300. -/
def sprite (x y : Byte) (bs : List Byte) : State := ((regs12 x y).setIndex 0x300).writeBytes 0x300 bs

/-- V-D2, V-D3. -/
theorem test_draw_wraps_columns :
    (one (sprite 63 0 [0xFF]) 0xD121).map
      (fun t => (t.pixel 62 0, t.pixel 63 0, t.pixel 0 0, t.pixel 6 0, t.pixel 7 0, t.reg VF)) =
      some (false, true, true, true, false, 0) ∧
    (one (sprite 0 0 [0x01]) 0xD121).map (fun t => (t.pixel 0 0, t.pixel 7 0)) = some (false, true) := by decide
/-- V-D8 and V-D10. -/
theorem test_draw_wraps_rows_and_collides :
    (one (sprite 5 30 [0x80, 0x80, 0x80]) 0xD123).map
      (fun t => (t.pixel 5 29, t.pixel 5 30, t.pixel 5 31, t.pixel 5 0, t.pixel 5 1, t.reg VF)) =
      some (false, true, true, true, false, 0) ∧
    (one ((sprite 0 0 [0xC0]).setFb (FrameBuffer.blank.toggle 1 0)) 0xD121).map
      (fun t => (t.pixel 0 0, t.pixel 1 0, t.reg VF)) = some (true, false, 1) := by decide
/-- V-D13, V-D15, V-D16: VF as coordinate, the fault, and no rows at all. -/
theorem test_draw_corners :
    (one ((sprite 0 0 [0x80]).setReg VF 3) 0xDFF1).map (fun t => (t.pixel 3 3, t.reg VF)) = some (true, 0) ∧
    (one ((regs12 0 0).setIndex 0xFFF) 0xD122).map (fun t => (faultPc t, t.reg VF)) =
      some ((.loadFault, 0x1000, 0x200), 0x55) ∧
    (one ((regs12 0 0).setIndex 0x1000) 0xD120).map (fun t => (faultPc t, t.reg VF)) =
      some ((.noFault, 0, 0x202), 0) := by decide
/-- V-D7. -/
theorem test_clear_screen :
    (one ((regs12 0 0).setFb (FrameBuffer.blank.toggle 63 31)) 0x00E0).map
      (fun t => (t.fb == FrameBuffer.blank, t.reg VF)) = some (true, 0x55) := by decide
/-- 43_display.md R181. -/
theorem test_pixelAddress : pixelAddress 63 31 = 2047 ∧ pixelAddress 1 2 = 129 := by decide

/-! ### Keys and timers (2.7) -/

/-- V-K1, V-K2. -/
theorem test_skip_if_key : (one ((State.reset.setReg 4 0x0A).keyWrite 10 true) 0xE49E).map (·.pc) = some 0x204 ∧
    (one (State.reset.setReg 4 0x0A) 0xE49E).map (·.pc) = some 0x202 := by decide
/-- V-K3, V-K4. -/
theorem test_skip_if_not_key : (one (State.reset.setReg 4 0x0A) 0xE4A1).map (·.pc) = some 0x204 ∧
    (one ((State.reset.setReg 4 0x0A).keyWrite 10 true) 0xE4A1).map (·.pc) = some 0x202 := by decide
/-- V-K5. -/
theorem test_key_index_fault : (one (State.reset.setReg 4 0x10) 0xE49E).map faultPc =
      some (.keyIndexFault, 0x10, 0x200) ∧
    (one (State.reset.setReg 4 0x10) 0xE4A1).map faultPc = some (.keyIndexFault, 0x10, 0x200) := by decide
/-- V-K6 (one Step). -/
theorem test_wait_for_key_rewinds : (one (State.reset.setReg 5 0x33) 0xF50A).map (fun t => (t.pc, t.reg 5)) =
    some (0x200, 0x33) := by decide
/-- V-K8, V-K9. -/
theorem test_wait_for_key_lowest :
    (one (((State.reset.keyWrite 9 true).keyWrite 3 true).keyWrite 12 true) 0xF50A).map
      (fun t => (t.pc, t.reg 5)) = some (0x202, 3) ∧
    (one ((State.reset.setReg 5 0x33).keyWrite 0 true) 0xF50A).map (fun t => (t.pc, t.reg 5)) =
      some (0x202, 0) := by decide
/-- V-T6. -/
theorem test_get_delay : (one (State.reset.setDt 0x1E) 0xF307).map (fun t => (t.reg 3, t.dt)) =
    some (0x1E, 0x1E) := by decide
/-- V-T5. -/
theorem test_set_delay : (one (State.reset.setReg 3 0x3C) 0xF315).map (fun t => (t.dt, t.st)) =
    some (0x3C, 0) := by decide
/-- V-T7, V-T8. -/
theorem test_set_sound : (one (State.reset.setReg 3 5) 0xF318).map (fun t => (t.dt, t.st, t.toneActive)) =
      some (0, 5, true) ∧
    (one (State.reset.setSt 9) 0xF318).map (fun t => (t.st, t.toneActive)) = some (0, false) := by decide

/-! ### The cycle, faults and host events (2.1, 2.2, 2.7) -/

/-- 2.1, the example after the table. -/
theorem test_unrecognized : (one State.reset 0x8128).map
    (fun t => (faultPc t, t.diagClass, t.diagUnrecognized)) = some ((.noFault, 0, 0x202), 8, true) := by decide
/-- V-M1 and its diagnostic outputs. -/
theorem test_fetch_big_endian : (one State.reset 0x6A02).map
    (fun t => (t.readByte 0x200, t.readByte 0x201, t.reg 10, t.pc, t.diagClass, t.diagUnrecognized)) =
    some (0x6A, 0x02, 2, 0x202, 6, false) := by decide
/-- V-M2, V-M4, V-M5. -/
theorem test_fetch_at_top : (one (State.reset.setPc 0xFFE) 0x6007).map faultPc = some (.noFault, 0, 0x1000) ∧
    (nextOf (step (State.reset.setPc 0xFFF))).map faultPc = some (.fetchFault, 0x1000, 0xFFF) ∧
    (nextOf (step (State.reset.setPc 0x10FE))).map faultPc = some (.fetchFault, 0x10FE, 0x10FE) := by decide
/-- 60_exceptions.md R222: a faulting step leaves the diagnostic outputs of the one before. -/
theorem test_fault_keeps_diag :
    (one (State.reset.noteDiag 0x8128 true) 0x00EE).map (fun t => (t.diagClass, t.diagUnrecognized)) =
    some (8, true) := by decide
/-- V-T10: a halted core's step changes nothing. -/
theorem test_halted_step : nextOf (step (State.reset.recordFault .stackUnderflow 0)) =
    some (State.reset.recordFault .stackUnderflow 0) := by decide
/-- V-T1 to V-T3. -/
theorem test_tick : (event State.reset .tick).map (fun t => (t.dt, t.st)) = some (0, 0) ∧
    (event ((State.reset.setDt 1).setSt 1) .tick).map (fun t => (t.dt, t.st, t.toneActive)) =
      some (0, 0, false) ∧
    (event ((State.reset.setDt 255).setSt 2) .tick).map (fun t => (t.dt, t.st, t.toneActive)) =
      some (254, 1, true) := by decide
/-- V-T9. -/
theorem test_tick_when_halted :
    (event ((State.reset.setDt 3).recordFault .stackUnderflow 0) .tick).map (fun t => (t.dt, t.faultCode)) =
    some (2, 4) := by decide
/-- 60_exceptions.md R231. -/
theorem test_keyWrite : (event State.reset (.keyWrite 5 true)).map (fun t => (t.key 5, t.key 4)) =
    some (true, false) := by decide
/-- 70_reset_and_hazards.md R261: font and program. -/
theorem test_load : (event State.reset (.load [0x6A, 0x02])).map
    (fun t => (bytes3 t 0x050, t.readByte 0x09F, bytes3 t 0x200, t.loadError, t.pc)) =
    some ([0xF0, 0x90, 0x90], 0x80, [0x6A, 0x02, 0], false, 0x200) := by decide
/-- 70_reset_and_hazards.md R260, R223: reset clears a fault. -/
theorem test_reset : event (((State.reset.setReg 3 7).setPc 0x300).recordFault .stackUnderflow 0) .reset =
    some State.reset := by decide
/-- 60_exceptions.md R224. -/
theorem test_sameClock : HostEvent.sameClock true true (some (3, true)) = [.cycle, .tick, .keyWrite 3 true] := by
  decide
/-- P1, from reset through the agenda: load, two steps. -/
theorem test_program_P1 :
    (nextOf (core.run 3 (State.reset.setAgenda [.load [0x6A, 0x02, 0x7A, 0x03], .cycle, .cycle]))).map
      (fun t => (t.reg 10, t.pc, t.diagClass)) = some (5, 0x204, 7) := by decide

/-! ### Witnesses: for each statement with hypotheses, states and operands that meet them

Each is named after its statement. Where a statement has several clauses there is one at a boundary of each. -/

/-- A core halted by `return` on an empty stack at 0x200. -/
def haltedCore : State := State.reset.recordFault .stackUnderflow 0

/-- Memory with a byte, `I` = `i`, `V[0]` to `V[2]` set. -/
def dumpState (i : Word) : State :=
  (((regAndIndex 0 0xAA i).setReg 1 0xBB).setReg 2 0xCC).writeByte 0x300 0x07

/-- A legal choice of parameters at its bounds: the highest font, one stack entry, another fill byte. -/
def otherParams : Config.Params := { Config.defaults with fontBase := 0x1B0, stackDepth := 1, memFill := 0xFF }

theorem witness_ResetGivesSpecValuesAndAloneClearsFault :
    haltedCore.GoneWrong ∧ haltedCore.agenda.head? ≠ some .reset ∧ step haltedCore = .next haltedCore :=
  ⟨by decide, by decide, rfl⟩

theorem witness_InvariantHoldsAfterReset :
    State.reset.cfg.Legal ∧ ({ State.reset with cfg := otherParams } : State).cfg.Legal := by decide

theorem witness_StepKeepsInvariant : (State.reset.withFetchWord 16 0x2ABC).Inv ∧
    (nextOf (step (State.reset.withFetchWord 16 0x2ABC))).isSome = true := by decide

/-- A running instruction, and one that faults. -/
theorem witness_StepRunsDecodedInstruction :
    (State.reset.withFetchWord 16 0x6A02).ReadyToStep ∧ (State.reset.withFetchWord 16 0x6A02).HasWordAtPc 0x6A02 ∧
    decodeWord 0x6A02 = .ok (.loadImm 10 2) ∧
    (nextOf (exec (.loadImm 10 2) (State.reset.setPc 0x202))).isSome = true ∧
    (State.reset.withFetchWord 16 0x00EE).ReadyToStep ∧ (State.reset.withFetchWord 16 0x00EE).HasWordAtPc 0x00EE ∧
    decodeWord 0x00EE = .ok .ret ∧
    (nextOf (exec .ret ((State.reset.withFetchWord 16 0x00EE).setPc 0x202))).map (·.halted) = some true := by decide

/-- At the last address a word fits. -/
theorem witness_UnrecognizedWordOnlyAdvancesPc :
    ((State.reset.setPc 0xFFE).withFetchWord 16 0x8128).ReadyToStep ∧
    ((State.reset.setPc 0xFFE).withFetchWord 16 0x8128).HasWordAtPc 0x8128 ∧
    (∀ i, decodeWord 0x8128 ≠ .ok i) :=
  ⟨by decide, by decide, fun i => by rw [show decodeWord 0x8128 = .error (.unrecognized 0x8128) from rfl]; simp⟩

theorem witness_FetchOutsideMemoryFaults :
    (State.reset.setPc 0xFFF).ReadyToStep ∧ 0xFFE < (State.reset.setPc 0xFFF).pc.toNat ∧
    (State.reset.setPc 0xFFFF).ReadyToStep ∧ 0xFFE < (State.reset.setPc 0xFFFF).pc.toNat := by decide

theorem witness_HaltedCoreStillCountsAndListens : haltedCore.GoneWrong ∧ haltedCore.agenda = [] := by decide

theorem witness_FaultsArePrecise :
    (State.reset.withFetchWord 16 0x00EE).ReadyToStep ∧
    (nextOf (step (State.reset.withFetchWord 16 0x00EE))).map (·.halted) = some true := by decide

theorem witness_FaultIsRecordedOnceUntilReset :
    (haltedCore.setAgenda [.tick, .cycle, .keyWrite 3 true]).GoneWrong ∧
    ((haltedCore.setAgenda [.tick, .cycle, .keyWrite 3 true]).agenda.all fun e =>
      match e with | .reset => false | .load _ => false | .cycle => true | .tick => true | .keyWrite _ _ => true) = true ∧
    (nextOf (core.run 4 (haltedCore.setAgenda [.tick, .cycle, .keyWrite 3 true]))).isSome = true := by decide

/-- 70_reset_and_hazards.md R262, R263: the duties are broken by Steps with no Load before them, the Steps of an empty
agenda included, by a second Load and by one that is too long. -/
theorem test_keepsProtocol_refuses :
    keepsProtocol .awaitLoad [] = false ∧ keepsProtocol .running [.reset] = false ∧
    keepsProtocol .awaitLoad [.tick, .cycle] = false ∧ keepsProtocol .awaitLoad [.load [], .load []] = false ∧
    (∀ bytes : List Byte, 3584 < bytes.length → keepsProtocol .awaitLoad [.load bytes] = false) :=
  ⟨rfl, rfl, rfl, rfl, fun bytes h => by simp [keepsProtocol, Nat.not_le.mpr h]⟩

theorem witness_HostKeepingProtocolSeesNoLoadError :
    keepsProtocol .awaitLoad [.tick, .load [0x12, 0x00], .cycle, .reset, .load [], .keyWrite 1 true, .cycle] = true ∧
    keepsProtocol .running [.cycle, .tick] = true ∧ State.reset.loadError = false := by decide

theorem witness_TicksCountDownSaturating :
    ((State.reset.setDt 1).setAgenda [.tick, .tick]).agenda = List.replicate 2 .tick := by decide

/-- Both clauses at their boundary lengths. -/
theorem witness_LoadWritesFontAndProgram :
    State.reset.cfg.Legal ∧ State.reset.mem.wf State.reset.cfg.memFill = true ∧
    (List.replicate 3584 (0x60 : Byte)).length ≤ 3584 ∧ 3584 < (List.replicate 3585 (0x60 : Byte)).length :=
  ⟨by decide, by decide, by rw [List.length_replicate], by rw [List.length_replicate]; decide⟩

theorem witness_PlacedWordIsFetchedNext : (dumpState 0).mem.wf (dumpState 0).cfg.memFill = true := by decide

theorem witness_DecodeInvertsEncode : (Instr.draw 15 0 15).WellFormed ∧ (Instr.draw 0 15 0).WellFormed := by decide

theorem witness_DecodedInstructionReencodes :
    decodeWord 0x5127 = .ok (.skipEqReg 1 2) ∧ decodeWord 0x812E = .ok (.shl 1) ∧
    decodeWord 0xD12F = .ok (.draw 1 2 15) := by decide

theorem witness_DecoderAgreesWithOpcodeMap :
    rowOf (.shl 0) ∈ opcodeMap ∧ (rowOf (.shl 0)).accepts 0x812E = true ∧
    (opcodeMap.all fun r => !r.accepts 0x8128) = true := by decide

/-- A completed store with the bytes at both its edges kept, a faulting one, and a well-formed draw with a pixel
beside its sprite. -/
theorem witness_EveryInstructionKeepsItsFrame :
    (nextOf (exec (.regDump 1) (dumpState 0x301))).map
      (fun t => (t.halted, t.readBytes 0x300 4)) = some (false, [0x07, 0xAA, 0xBB, 0]) ∧
    (dumpState 0x301).effAddr (Instr.regDump 1).storedBytes = 0x303 ∧
    (nextOf (exec (.regDump 2) (dumpState 0xFFE))).map (·.halted) = some true ∧
    (Instr.draw 1 2 15).WellFormed ∧ (sprite 0 0 [0x80]).plots 1 0 (.draw 1 2 15) = false ∧
    (sprite 0 0 [0x80]).plots 0 0 (.draw 1 2 15) = true := by decide

theorem witness_FlagWrittenOnlyByItsSixInstructions :
    State.reset.Running ∧ (Instr.addReg 15 1).setsFlag = true ∧
    (nextOf (exec (.addReg 15 1) State.reset)).map (·.halted) = some false ∧
    (Instr.orReg 14 1).setsFlag = false ∧ VF ∉ (Instr.orReg 14 1).destinations ∧
    (nextOf (exec (.orReg 14 1) State.reset)).isSome = true := by decide

theorem witness_NoInstructionReadsSoundTimer :
    (nextOf (exec (.getDelay 1) (State.reset.setSt 9))).isSome = true ∧
    (nextOf (exec (.setSound 1) (State.reset.setSt 9))).isSome = true := by decide

/-- Two states that differ in a dead entry, with the other one live. -/
theorem witness_DeadStackEntriesCannotBeObserved :
    SameButDeadStack (State.reset.push 0x202) ((State.reset.push 0x202).push 0x204).drop ∧
    (State.reset.push 0x202) ≠ ((State.reset.push 0x202).push 0x204).drop ∧
    (nextOf (step (State.reset.push 0x202))).isSome = true :=
  ⟨⟨rfl, by decide, by decide⟩, by decide, by decide⟩

/-- One free entry left, and none. -/
theorem witness_CallPushesOrOverflows :
    ({ State.reset with sp := 15 } : State).stack.length = ({ State.reset with sp := 15 } : State).cfg.stackDepth ∧
    ({ State.reset with sp := 15 } : State).sp < ({ State.reset with sp := 15 } : State).cfg.stackDepth ∧
    ({ State.reset with sp := 16 } : State).stack.length = ({ State.reset with sp := 16 } : State).cfg.stackDepth ∧
    ({ State.reset with sp := 16 } : State).sp = ({ State.reset with sp := 16 } : State).cfg.stackDepth := by decide

/-- One live entry, and none; a full stack. -/
theorem witness_ReturnPopsOrUnderflows :
    (State.reset.push 0x202).stack.length = (State.reset.push 0x202).cfg.stackDepth ∧
    0 < (State.reset.push 0x202).sp ∧ (State.reset.push 0x202).sp ≤ (State.reset.push 0x202).cfg.stackDepth ∧
    State.reset.stack.length = State.reset.cfg.stackDepth ∧ State.reset.sp = 0 ∧
    0 < ({ State.reset with sp := 16 } : State).sp ∧
    ({ State.reset with sp := 16 } : State).sp ≤ ({ State.reset with sp := 16 } : State).cfg.stackDepth := by decide

/-- The subroutine called once itself and returned: its entry is dead, and no longer what the first call left. -/
def afterNestedCall : State := ((((State.reset.push 0x202).setPc 0xABC).push 0xABE).drop).setReg 3 9

theorem witness_ReturnResumesAfterItsCall :
    (State.reset.setPc 0x202).stack.length = (State.reset.setPc 0x202).cfg.stackDepth ∧
    (State.reset.setPc 0x202).sp < (State.reset.setPc 0x202).cfg.stackDepth ∧
    exec (.call 0xABC) (State.reset.setPc 0x202) = .next ((State.reset.push 0x202).setPc 0xABC) ∧
    afterNestedCall.sp = ((State.reset.push 0x202).setPc 0xABC).sp ∧
    afterNestedCall.stack.length = ((State.reset.push 0x202).setPc 0xABC).stack.length ∧
    afterNestedCall.stack.take afterNestedCall.sp =
      ((State.reset.push 0x202).setPc 0xABC).stack.take ((State.reset.push 0x202).setPc 0xABC).sp ∧
    afterNestedCall.stack ≠ ((State.reset.push 0x202).setPc 0xABC).stack :=
  ⟨by decide, by decide, rfl, by decide, by decide, by decide, by decide⟩

theorem witness_FinishedStateStaysPut :
    (State.reset.withFetchWord 16 0x1200).Finished ∧ (State.reset.withFetchWord 16 0x1200).agenda = [] :=
  ⟨⟨by decide, 0x200, by decide, by decide⟩, by decide⟩

/-- The destination is VF, and is not. -/
theorem witness_AddAndSubSetResultThenFlag :
    ((regs12 0xC8 0x64).reg 1).toNat = 200 ∧ ((regs12 0xC8 0x64).reg 2).toNat = 100 ∧
    (1 : Reg) ≠ VF ∧ ((regs12 0xC8 0x64).reg VF).toNat = 85 := by decide

theorem witness_SubnReversesTheOperands :
    ((regs12 5 10).reg 1).toNat = 5 ∧ ((regs12 5 10).reg 2).toNat = 10 ∧ (1 : Reg) ≠ VF := by decide

theorem witness_ShiftsEvictOneBitIntoFlag : (14 : Reg) ≠ VF := by decide

theorem witness_RandomMasksTheInputByte : (0x0F : Byte).getLsbD 4 = false := by decide

theorem witness_FontCharIndexesByFive : ((State.reset.setReg 0 0xFF)).cfg.Legal := by decide

theorem witness_FontCharPointsAtLoadedGlyph :
    (State.reset.setReg 0 15).cfg.Legal ∧
    (State.reset.setReg 0 15).mem.wf (State.reset.setReg 0 15).cfg.memFill = true ∧
    (event (State.reset.setReg 0 15) (.load [0x12, 0x00])).map (·.loadError) = some false ∧
    ((State.reset.setReg 0 15).reg 0).toNat ≤ 15 := by decide

/-- The last place that fits, and the first that does not. -/
theorem witness_BcdStoreWritesThreeDigits :
    (dumpState 0xFFD).mem.wf (dumpState 0xFFD).cfg.memFill = true ∧ (dumpState 0xFFD).index.toNat ≤ 0xFFD ∧
    (dumpState 0xFFE).mem.wf (dumpState 0xFFE).cfg.memFill = true ∧ 0xFFD < (dumpState 0xFFE).index.toNat := by
  decide

theorem witness_RegDumpStoresTheBlock :
    (dumpState 0xFF0).mem.wf (dumpState 0xFF0).cfg.memFill = true ∧
    (dumpState 0xFF0).index.toNat + (15 : Reg).val ≤ 0xFFF ∧
    (dumpState 0xFF1).mem.wf (dumpState 0xFF1).cfg.memFill = true ∧
    0xFFF < (dumpState 0xFF1).index.toNat + (15 : Reg).val := by decide

theorem witness_RegLoadLoadsTheBlock :
    (dumpState 0xFF0).index.toNat + (15 : Reg).val ≤ 0xFFF ∧ 0xFFF < (dumpState 0xFF1).index.toNat + (15 : Reg).val ∧
    (dumpState 0xFFF).index.toNat + (0 : Reg).val ≤ 0xFFF := by decide

/-- The dump's own result, with every dumped register overwritten since. -/
theorem witness_LoadBringsDumpedRegistersBack :
    (dumpState 0xFFD).mem.wf (dumpState 0xFFD).cfg.memFill = true ∧ (dumpState 0xFFD).index.toNat + (2 : Reg).val ≤ 0xFFF ∧
    exec (.regDump 2) (dumpState 0xFFD) = .next ((dumpState 0xFFD).writeBytes 0xFFD [0xAA, 0xBB, 0xCC]) ∧
    (((dumpState 0xFFD).writeBytes 0xFFD [0xAA, 0xBB, 0xCC]).setReg 1 0).index = (dumpState 0xFFD).index ∧
    (∀ a, (((dumpState 0xFFD).writeBytes 0xFFD [0xAA, 0xBB, 0xCC]).setReg 1 0).readByte a =
      ((dumpState 0xFFD).writeBytes 0xFFD [0xAA, 0xBB, 0xCC]).readByte a) :=
  ⟨by decide, by decide, rfl, rfl, fun _ => rfl⟩

theorem witness_StoredBytesAreFetchedAtOnce :
    (1 : Reg).val + 1 ≤ (2 : Reg).val ∧ (dumpState 0xFFD).mem.wf (dumpState 0xFFD).cfg.memFill = true ∧
    (dumpState 0xFFD).index.toNat + (2 : Reg).val ≤ 0xFFF ∧
    (nextOf (exec (.regDump 2) (dumpState 0xFFD))).isSome = true := by decide

/-- The last row that fits, the first that does not, and no rows with `I` outside the memory. -/
theorem witness_DrawXorsTheSpriteAndFlagsCollision :
    (dumpState 0xFF1).index.toNat + 15 ≤ 0x1000 ∧ 0x1000 < (dumpState 0xFF2).index.toNat + 15 ∧
    0x1000 < (dumpState 0x2345).index.toNat ∧ 0x1000 < (dumpState 0x2345).index.toNat + 1 := by decide

theorem witness_DrawTwiceRestoresTheDisplay :
    (1 : Reg) ≠ VF ∧ (2 : Reg) ≠ VF ∧ (sprite 63 0 [0xFF]).index.toNat + 1 ≤ 0x1000 ∧
    (nextOf (exec (.draw 1 2 1) (sprite 63 0 [0xFF]))).isSome = true := by decide

theorem witness_KeySkipsTestTheLatch :
    ((State.reset.setReg 4 15).reg 4).toNat = (15 : Key).val ∧ 15 < ((State.reset.setReg 4 16).reg 4).toNat := by decide

theorem witness_WaitForKeyTakesLowestOrRewinds :
    (State.reset.keyWrite 15 true).key 15 = true ∧ (∀ j < (15 : Key), (State.reset.keyWrite 15 true).key j = false) ∧
    (State.reset.keyWrite 0 true).key 0 = true ∧ (∀ k, State.reset.key k = false) := by decide

theorem witness_PollingLeavesStateUntilAKey :
    (State.reset.withFetchWord 16 0xF50A).Running ∧ (State.reset.withFetchWord 16 0xF50A).HasWordAtPc 0xF50A ∧
    decodeWord 0xF50A = .ok (.waitForKey 5) ∧ (∀ j, (State.reset.withFetchWord 16 0xF50A).key j = false) ∧
    ((State.reset.withFetchWord 16 0xF50A).setAgenda [.cycle, .cycle]).agenda = List.replicate 2 .cycle ∧
    ((State.reset.withFetchWord 16 0xF50A).setAgenda [.cycle, .keyWrite 7 true, .cycle]).agenda =
      List.replicate 1 .cycle ++ [.keyWrite 7 true, .cycle] := by decide

/-- Both clauses: a run under way, and a `Load` still awaited. -/
theorem witness_StepKeepsHostDuties :
    keepsProtocol .running (State.reset.setAgenda [.cycle, .tick]).agenda = true ∧
    (State.reset.setAgenda [.cycle, .tick]).loadError = false ∧
    (nextOf (step (State.reset.setAgenda [.cycle, .tick]))).isSome = true ∧
    keepsProtocol .awaitLoad (State.reset.setAgenda [.load [0x12, 0x00], .cycle]).agenda = true ∧
    (State.reset.setAgenda [.load [0x12, 0x00], .cycle]).agenda.head? ≠ some .reset ∧
    (event State.reset (.load [0x12, 0x00])).isSome = true := by decide

end Sys2Proof.Tests
end

namespace Sys2Proof.Machine

/-! ### Frames of the updates -/

theorem Part.same_trans {s t u : State} {p : Part} (h₁ : p.same s t) (h₂ : p.same t u) : p.same s u := by
  cases p with
  | stack | diag => exact ⟨h₂.1.trans h₁.1, h₂.2.trans h₁.2⟩
  | keys | mem => exact fun a => (h₂ a).trans (h₁ a)
  | fb => exact fun x y => (h₂ x y).trans (h₁ x y)
  | _ => exact Eq.trans h₂ h₁

namespace OnlyChanges

variable {s t u : State} {regs regs' : List Reg} {parts parts' : List Part}

theorem mono (h : OnlyChanges s t regs parts) (hr : regs ⊆ regs') (hp : parts ⊆ parts') :
    OnlyChanges s t regs' parts' :=
  ⟨fun r hn => h.1 r (mt (@hr r) hn), fun p hn => h.2 p (mt (@hp p) hn)⟩

theorem trans (h₁ : OnlyChanges s t regs parts) (h₂ : OnlyChanges t u regs' parts') :
    OnlyChanges s u (regs ++ regs') (parts ++ parts') := by
  refine ⟨fun r hn => ?_, fun p hn => ?_⟩ <;> rw [List.mem_append, not_or] at hn
  · exact (h₂.1 r hn.2).trans (h₁.1 r hn.1)
  · exact Part.same_trans (h₁.2 p hn.1) (h₂.2 p hn.2)

variable (s)

/-- Writing registers alone keeps every part. -/
theorem of_regs {v : Vector Byte 16} (h : ∀ r, r ∉ regs → { s with v := v }.reg r = s.reg r) :
    OnlyChanges s { s with v := v } regs [] :=
  ⟨h, fun p _ => by cases p <;> simp [Part.same, State.key, State.pixel, State.readByte]⟩

theorem of_setReg (x : Reg) (b : Byte) : OnlyChanges s (s.setReg x b) [x] [] :=
  of_regs s fun r hr => (State.reg_setReg s x r b).trans (if_neg (by simpa using hr))

theorem of_writeResultThenFlag (x : Reg) (b : Byte) (f : Bool) :
    OnlyChanges s (s.writeResultThenFlag x b f) [x, VF] [] :=
  (of_setReg s x b).trans (of_setReg _ VF _)

theorem of_loadRegs (x : Reg) {bs : List Byte} (hl : bs.length = x.val + 1) :
    OnlyChanges s (s.loadRegs 0 bs) ((List.finRange 16).filter (· ≤ x)) [] := by
  rw [State.loadRegs_eq]
  refine of_regs s fun r hr => ?_
  rw [← State.loadRegs_eq, State.reg_loadRegs]
  have hxr : x.val < r.val := by simpa using hr
  exact dif_neg (by omega)

theorem of_setPc (w : Word) : OnlyChanges s (s.setPc w) [] [.pc] :=
  ⟨fun _ _ => rfl, fun p hp => by cases p <;> simp [Part.same] at hp ⊢⟩

theorem of_setIndex (w : Word) : OnlyChanges s (s.setIndex w) [] [.index] :=
  ⟨fun _ _ => rfl, fun p hp => by cases p <;> simp [Part.same] at hp ⊢⟩

theorem of_setDt (b : Byte) : OnlyChanges s (s.setDt b) [] [.dt] :=
  ⟨fun _ _ => rfl, fun p hp => by cases p <;> simp [Part.same] at hp ⊢⟩

theorem of_setSt (b : Byte) : OnlyChanges s (s.setSt b) [] [.st] :=
  ⟨fun _ _ => rfl, fun p hp => by cases p <;> simp [Part.same] at hp ⊢⟩

theorem of_setFb (f : FrameBuffer) : OnlyChanges s (s.setFb f) [] [.fb] :=
  ⟨fun _ _ => rfl, fun p hp => by cases p <;> simp [Part.same] at hp ⊢⟩

theorem of_push (w : Word) : OnlyChanges s (s.push w) [] [.stack] :=
  ⟨fun _ _ => rfl, fun p hp => by cases p <;> simp [Part.same] at hp ⊢⟩

theorem of_drop : OnlyChanges s s.drop [] [.stack] :=
  ⟨fun _ _ => rfl, fun p hp => by cases p <;> simp [Part.same] at hp ⊢⟩

theorem of_recordFault (c : FaultCode) (a : Word) : OnlyChanges s (s.recordFault c a) [] [.fault] :=
  ⟨fun _ _ => rfl, fun p hp => by cases p <;> simp [Part.same] at hp ⊢⟩

theorem of_writeBytes (a : Nat) (bs : List Byte) : OnlyChanges s (s.writeBytes a bs) [] [.mem] :=
  ⟨fun _ _ => by simp, fun p hp => by cases p <;> simp [Part.same] at hp ⊢⟩

theorem of_report (e : Bool) : OnlyChanges s (s.report e) [] [.report] :=
  ⟨fun _ _ => rfl, fun p hp => by cases p <;> simp [Part.same] at hp ⊢⟩

theorem of_randomWith (rnd : Byte) (x : Reg) (nn : Byte) :
    OnlyChanges s (randomWith rnd x nn s) [x] [.draws] :=
  ⟨(of_setReg s x (rnd &&& nn)).1, fun p hp => by
    cases p <;> simp [Part.same, randomWith, State.key, State.pixel, State.readByte] at hp ⊢⟩

/-- A fault entry writes `PC` and `FAULT` (60_exceptions.md R222). -/
theorem of_faultEntry (c : FaultCode) (a : Word) :
    OnlyChanges s (s.rewindPc.recordFault c a) [] [.pc, .fault] :=
  (of_setPc s (s.pc - 2)).trans (of_recordFault _ c a)

/-- A `Load` writes memory and the report at most (70_reset_and_hazards.md R261, R262). -/
theorem of_loadProgram (bytes : List Byte) : OnlyChanges s (s.loadProgram bytes) [] [.mem, .report] := by
  unfold State.loadProgram
  split
  · exact (of_report s true).mono (List.nil_subset _) (by simp)
  · exact (((of_writeBytes s _ _).trans (of_writeBytes _ _ _)).trans (of_report _ false)).mono
      (List.nil_subset _) (by simp)

end OnlyChanges

/-! ### The ways of the execute phase -/

/-- The instruction was fetched from memory: `PC`, already advanced, is 2 to 0x1000 (30_encoding.md R80). -/
def State.JustFetched (s : State) : Prop := 2 ≤ s.pc.toNat ∧ s.pc.toNat ≤ 0x1000

/-- A fetch succeeds only with `PC` at most 0xFFE, so its advance does not wrap. -/
theorem justFetched_advancePc {s : State} (h : s.pc.toNat ≤ 0xFFE) : s.advancePc.JustFetched := by
  simp only [State.JustFetched, State.advancePc_pc, BitVec.toNat_add, BitVec.reduceToNat]
  omega

/-- The ways an instruction completes, by what it writes: the state it leaves, with the facts about the operands
that its frame and the invariant need. -/
inductive Completes (s : State) : Instr → State → Prop
  /-- One general register, the destination. -/
  | reg {i : Instr} (x : Reg) (b : Byte) (hx : x ∈ i.destinations) (hf : i.setsFlag = false) :
      Completes s i (s.setReg x b)
  /-- A result, then VF (41_alu.md R130). -/
  | resultThenFlag {i : Instr} (x : Reg) (b : Byte) (f : Bool) (hx : x ∈ i.destinations) (hf : i.setsFlag = true) :
      Completes s i (s.writeResultThenFlag x b f)
  | random (x : Reg) (nn rnd : Byte) : Completes s (.random x nn) (randomWith rnd x nn s)
  /-- The jumps, the skips and a rewound wait-for-key: `PC`. -/
  | pc {i : Instr} (w : Word) (hp : .pc ∈ i.writtenParts) (hf : i.setsFlag = false)
      (hw : s.JustFetched → w.toNat ≤ 0x10FE) : Completes s i (s.setPc w)
  | index {i : Instr} (w : Word) (hp : .index ∈ i.writtenParts) (hf : i.setsFlag = false) :
      Completes s i (s.setIndex w)
  | setDelay (x : Reg) (b : Byte) : Completes s (.setDelay x) (s.setDt b)
  | setSound (x : Reg) (b : Byte) : Completes s (.setSound x) (s.setSt b)
  | clearScreen : Completes s .clearScreen (s.setFb FrameBuffer.blank)
  | draw (x y : Reg) (n : Nat) : Completes s (.draw x y n)
      ((s.setFb (s.drawing x y n).fb).setReg VF (flagByte (s.drawing x y n).collision))
  | ret (h : s.sp ≠ 0) : Completes s .ret (s.drop.setPc s.top)
  | call (nnn : Addr12) (h : s.sp ≠ s.cfg.stackDepth) :
      Completes s (.call nnn) ((s.push s.pc).setPc (zextNNN nnn))
  /-- bcd-store and reg-dump: a sequence of bytes that lies in the memory. -/
  | store {i : Instr} (bs : List Byte) (hp : .mem ∈ i.writtenParts) (hf : i.setsFlag = false)
      (hl : bs.length = i.storedBytes) (hr : s.effAddr bs.length ≤ 0x1000) :
      Completes s i (s.writeBytes (s.effAddr 0) bs)
  | regLoad (x : Reg) (bs : List Byte) (hl : bs.length = x.val + 1) : Completes s (.regLoad x) (s.loadRegs 0 bs)

/-- How an instruction faults (60_exceptions.md R220, R222): through fault entry, with a legal code and address. -/
inductive Faults (s : State) (i : Instr) : State → Prop
  | entry (c : FaultCode) (a : Word) (hm : i.mayFault = true) (hc : c ≠ .noFault) (hl : FaultReg.Legal ⟨c, a⟩) :
      Faults s i (s.rewindPc.recordFault c a)

theorem Faults.of_takeFault {s t : State} {i : Instr} {c : FaultCode} {a : Word} (h : takeFault c a s = .next t)
    (hm : i.mayFault = true) (hc : c ≠ .noFault) (hl : FaultReg.Legal ⟨c, a⟩) : Faults s i t := by
  cases h
  exact .entry c a hm hc hl

/-- The out-of-range address of a load or a store is a legal one (10_state.md R29). -/
theorem legal_firstOutOfRange {c : FaultCode} (w : Word) (hc : c = .loadFault ∨ c = .storeFault) :
    FaultReg.Legal ⟨c, firstOutOfRange w⟩ := by
  rcases hc with rfl | rfl <;> simp [FaultReg.Legal, FaultReg.legal]

/-- A range-checked access completes, in range, or faults (20_memory.md R59). -/
theorem withRange_outcome {c : FaultCode} {last : Nat} {s body t : State} {i : Instr}
    (h : withRange c last s body = .next t) (hm : i.mayFault = true) (hc : c = .loadFault ∨ c = .storeFault)
    (hb : s.effAddr (last + 1) ≤ 0x1000 → Completes s i body) : Completes s i t ∨ Faults s i t := by
  rcases withRange_cases c last s body with ⟨hr, he⟩ | ⟨-, he⟩ <;> rw [he] at h
  · cases h
    exact .inl (hb (by rw [State.effAddr]; omega))
  · exact .inr (.of_takeFault h hm (by rcases hc with rfl | rfl <;> decide) (legal_firstOutOfRange _ hc))

/-- A skip lands at most at 0x1002. -/
theorem Completes.of_skipIf {s : State} {i : Instr} (c : Bool) (hp : .pc ∈ i.writtenParts)
    (hf : i.setsFlag = false) : Completes s i (s.skipIf c) := by
  rw [skipIf_eq]
  refine .pc _ hp hf fun ⟨_, hle⟩ => ?_
  cases c
  · simp only [Bool.false_eq_true, if_false]; omega
  · simp only [if_true, BitVec.toNat_add, BitVec.reduceToNat]; omega

/-- A skip on a key completes, or faults with the index, which is above 15 (44_keys_timers.md R200). -/
theorem skipOnKey_outcome {want : Bool} {x : Reg} {s t : State} {i : Instr} (h : skipOnKey want x s = .next t)
    (hm : i.mayFault = true) (hp : .pc ∈ i.writtenParts) (hf : i.setsFlag = false) :
    Completes s i t ∨ Faults s i t := by
  rcases skipOnKey_cases want x s with ⟨k, -, he⟩ | ⟨hx, he⟩ <;> rw [he] at h
  · cases h
    exact .inl (.of_skipIf _ hp hf)
  · refine .inr (.of_takeFault h hm (by decide) ?_)
    have := (s.reg x).isLt
    simp only [FaultReg.Legal, FaultReg.legal, BitVec.truncate_eq_setWidth, BitVec.toNat_setWidth,
      Bool.and_eq_true, decide_eq_true_eq]
    omega

theorem zextNNN_toNat (nnn : Addr12) : (zextNNN nnn).toNat = nnn.toNat := by
  have := nnn.isLt
  simp only [zextNNN, BitVec.truncate_eq_setWidth, BitVec.toNat_setWidth]
  omega

/-- The target of jump-offset, `NNN + V[0]`, is not reduced (40_control.md R118). -/
theorem jumpOffset_target_toNat (nnn : Addr12) (b : Byte) :
    (zextNNN nnn + b.zeroExtend 16).toNat = nnn.toNat + b.toNat := by
  have := nnn.isLt
  have := b.isLt
  simp only [BitVec.toNat_add, zextNNN_toNat, BitVec.truncate_eq_setWidth, BitVec.toNat_setWidth]
  omega

/-- Everything the execute phase can do: an instruction completes in one of the ways of `Completes`, or faults. -/
theorem exec_cases {i : Instr} {s t : State} (h : exec i s = .next t) : Completes s i t ∨ Faults s i t := by
  cases i with
  | loadImm x _ | addImm x _ | setReg x _ | orReg x _ | andReg x _ | xorReg x _ | getDelay x =>
    cases h
    exact .inl (.reg x _ (.head _) rfl)
  | addReg x _ | subReg x _ | shr x | subnReg x _ | shl x =>
    cases h
    exact .inl (.resultThenFlag x _ _ (.head _) rfl)
  | skipEqImm | skipNeqImm | skipEqReg | skipNeqReg =>
    cases h
    exact .inl (.of_skipIf _ (.head _) rfl)
  | setIndex | addIndex | fontChar =>
    cases h
    exact .inl (.index _ (.head _) rfl)
  | random x nn =>
    cases h
    exact .inl (.random x nn _)
  | setDelay x =>
    cases h
    exact .inl (.setDelay x _)
  | setSound x =>
    cases h
    exact .inl (.setSound x _)
  | clearScreen =>
    cases h
    exact .inl .clearScreen
  | jump nnn =>
    cases h
    refine .inl (.pc _ (.head _) rfl fun _ => ?_)
    rw [zextNNN_toNat]
    omega
  | jumpOffset nnn =>
    cases h
    refine .inl (.pc _ (.head _) rfl fun _ => ?_)
    rw [jumpOffset_target_toNat]
    omega
  | waitForKey x =>
    simp only [exec, execWaitForKey] at h
    split at h <;> cases h
    · refine .inl (.pc _ (.head _) rfl fun ⟨_, _⟩ => ?_)
      rw [BitVec.toNat_sub_of_le (by simpa [BitVec.le_def])]
      omega
    · exact .inl (.reg x _ (.head _) rfl)
  | ret =>
    simp only [exec, execRet] at h
    split at h
    · exact .inr (.of_takeFault h rfl (by decide) rfl)
    case isFalse hsp =>
      cases h
      exact .inl (.ret hsp)
  | call nnn =>
    simp only [exec, execCall] at h
    split at h
    · exact .inr (.of_takeFault h rfl (by decide) rfl)
    case isFalse hsp =>
      cases h
      exact .inl (.call nnn hsp)
  | skipIfKey | skipIfNotKey => exact skipOnKey_outcome h rfl (.head _) rfl
  | draw x y n =>
    rcases execDraw_cases x y n s with ⟨-, hb⟩ | ⟨-, -, hb⟩ <;> rw [exec, hb] at h
    · cases h
      exact .inl (.draw x y n)
    · exact .inr (.of_takeFault h rfl (by decide) (legal_firstOutOfRange _ (.inl rfl)))
  | bcdStore => exact withRange_outcome h rfl (.inr rfl) fun hr => .store _ (.head _) rfl rfl hr
  | regDump x =>
    exact withRange_outcome h rfl (.inr rfl) fun hr =>
      .store _ (.head _) rfl (s.regBlock_length x) (by rwa [s.regBlock_length])
  | regLoad x => exact withRange_outcome h rfl (.inl rfl) fun _ => .regLoad x _ (s.readBytes_length _ _)

/-! ### The step as one event -/

/-- A step is one host event, a `Step` when none is listed, with the rest of the agenda left (log 4). -/
theorem step_eq_hostEvent (s : State) :
    step s = hostEvent (s.agenda.headD .cycle) (s.setAgenda s.agenda.tail) := by
  cases h : s.agenda with
  | nil =>
    have : s.setAgenda [] = s := by rw [← h]; rfl
    rw [step_of_agenda_nil s h, List.tail_nil, this]
    rfl
  | cons e rest => exact step_of_agenda_cons s rest e h

end Sys2Proof.Machine

/-! ### The frame of the execute phase (O21, O22) -/

namespace Sys2Proof.Machine

namespace Completes

variable {i : Instr} {s t : State}

/-- An instruction that completes writes only the registers and parts of its tables. -/
theorem onlyChanges (h : Completes s i t) : OnlyChanges s t i.writtenRegs i.writtenParts := by
  cases h with
  | reg x b hx _ => exact (OnlyChanges.of_setReg s x b).mono (by simp [Instr.writtenRegs, hx]) (List.nil_subset _)
  | resultThenFlag x b f hx hf =>
    exact (OnlyChanges.of_writeResultThenFlag s x b f).mono (by simp [Instr.writtenRegs, hx, hf]) (List.nil_subset _)
  | random x nn rnd => exact .of_randomWith s rnd x nn
  | pc w hp => exact (OnlyChanges.of_setPc s w).mono (List.nil_subset _) (by simpa using hp)
  | index w hp => exact (OnlyChanges.of_setIndex s w).mono (List.nil_subset _) (by simpa using hp)
  | setDelay x b => exact .of_setDt s b
  | setSound x b => exact .of_setSt s b
  | clearScreen => exact .of_setFb s _
  | draw x y n => exact (OnlyChanges.of_setFb s _).trans (.of_setReg _ VF _)
  | ret =>
    exact ((OnlyChanges.of_drop s).trans (.of_setPc _ _)).mono (List.nil_subset _) (by simp [Instr.writtenParts])
  | call =>
    exact ((OnlyChanges.of_push s _).trans (.of_setPc _ _)).mono (List.nil_subset _) (by simp [Instr.writtenParts])
  | store bs hp => exact (OnlyChanges.of_writeBytes s _ bs).mono (List.nil_subset _) (by simpa using hp)
  | regLoad x bs hl =>
    exact (OnlyChanges.of_loadRegs s x hl).mono (by simp [Instr.writtenRegs, Instr.destinations]) (List.nil_subset _)

/-- No byte outside the stored sequence is written. -/
theorem readByte_eq (h : Completes s i t) {a : Nat} (ha : a < s.effAddr 0 ∨ s.effAddr i.storedBytes ≤ a) :
    t.readByte a = s.readByte a := by
  cases h with
  | store bs _ _ hl => exact State.readByte_writeBytes_out s _ bs (by rw [hl]; exact ha)
  | regLoad => rw [State.loadRegs_eq]; rfl
  | _ => rfl

/-- No stack entry but `STACK[SP]` is written. -/
theorem stack_getElem?_eq (h : Completes s i t) {j : Nat} (hj : j ≠ s.sp) : t.stack[j]? = s.stack[j]? := by
  cases h with
  | call => exact List.getElem?_set_ne hj.symm
  | store => simp
  | regLoad => rw [State.loadRegs_eq]
  | _ => rfl

/-- No pixel is written but those of `State.plots`. -/
theorem pixel_eq (h : Completes s i t) (hi : i.WellFormed) {px : Fin 64} {py : Fin 32}
    (hp : s.plots px py i = false) : t.pixel px py = s.pixel px py := by
  cases h with
  | clearScreen => exact absurd hp (by simp [State.plots])
  | draw x y n =>
    have hn : n ≤ 15 := by simpa [Instr.WellFormed, Instr.wellFormed, rowCountFits] using hi
    have hd := (s.drawing_spec x y n (by omega)).1 px py
    rw [State.plots] at hp
    rw [hp, Bool.xor_false] at hd
    exact hd
  | store => simp
  | regLoad => rw [State.loadRegs_eq]; rfl
  | _ => rfl

/-- The flag an instruction leaves in VF is 0 or 1 (10_state.md R21). -/
theorem flag_le_one (h : Completes s i t) (hi : i.setsFlag = true) : (t.reg VF).toNat ≤ 1 := by
  cases h with
  | resultThenFlag | draw => simp
  | reg _ _ _ hf | pc _ _ hf | index _ _ hf | store _ _ hf => exact absurd (hf.symm.trans hi) Bool.false_ne_true
  | _ => exact absurd hi Bool.false_ne_true

end Completes

namespace Faults

variable {i : Instr} {s t : State}

theorem mayFault (h : Faults s i t) : i.mayFault = true := by
  cases h; assumption

theorem goneWrong (h : Faults s i t) : t.GoneWrong := by
  cases h; assumption

theorem onlyChanges (h : Faults s i t) : OnlyChanges s t [] [.pc, .fault] := by
  cases h with
  | entry c a => exact .of_faultEntry s c a

end Faults

end Sys2Proof.Machine

namespace Sys2Proof.Proofs

open Sys2Proof.Machine

/-- Settles O21: an instruction completes in one of the ways of `Completes`, each with its frame, or takes a fault. -/
theorem everyInstructionKeepsItsFrame : Obligations.EveryInstructionKeepsItsFrame := by
  intro i s t h
  rcases exec_cases h with hc | hf
  · exact .inl ⟨hc.onlyChanges, fun _ => hc.readByte_eq, fun _ => hc.stack_getElem?_eq,
      fun hi _ _ => hc.pixel_eq hi⟩
  · exact .inr ⟨hf.mayFault, hf.goneWrong, hf.onlyChanges⟩

/-- Settles O22: the flag of the ways that write it is 0 or 1; VF is in no other instruction's frame. -/
theorem flagWrittenOnlyByItsSixInstructions : Obligations.FlagWrittenOnlyByItsSixInstructions := by
  intro i s t _ h
  rcases exec_cases h with hc | hf
  · exact ⟨fun hi _ => hc.flag_le_one hi,
      fun hi hd => hc.onlyChanges.1 VF (by simpa [Instr.writtenRegs, hi] using hd)⟩
  · exact ⟨fun _ hr => absurd hr hf.goneWrong, fun _ _ => hf.onlyChanges.1 VF List.not_mem_nil⟩

end Sys2Proof.Proofs

/-! ### The machine invariant (O2, O3) -/

namespace Sys2Proof.Machine

/-- The live entries, one by one. -/
theorem liveReturnsLegal_iff (s : State) :
    s.LiveReturnsLegal ↔ ∀ j < s.sp, ∀ e, s.stack[j]? = some e → 2 ≤ e.toNat ∧ e.toNat ≤ 0x1000 := by
  simp only [State.LiveReturnsLegal, State.liveReturnsLegal, List.all_eq_true, Bool.and_eq_true, decide_eq_true_eq,
    List.mem_iff_getElem?, List.getElem?_take]
  constructor
  · exact fun h j hj e he => h e ⟨j, by rw [if_pos hj, he]⟩
  · rintro h e ⟨j, he⟩
    split at he
    · exact h j ‹_› e he
    · cases he

namespace State.Inv

variable {s t : State}

theorem pc_le (h : s.Inv) : s.pc.toNat ≤ 0x10FE := by
  obtain ⟨-, -, -, -, -, -, hpc⟩ := h
  exact hpc

/-- The invariant speaks of the parameters, memory, stack, `FAULT` and `PC` only. -/
theorem congr (h : s.Inv) (hcfg : t.cfg = s.cfg) (hmem : t.mem = s.mem) (hstack : t.stack = s.stack)
    (hsp : t.sp = s.sp) (hfault : t.fault = s.fault) (hpc : t.pc.toNat ≤ 0x10FE) : t.Inv := by
  obtain ⟨hLegal, hWf, hLength, hSp, hLive, hFault, -⟩ := h
  refine ⟨by rwa [hcfg], by rwa [hcfg, hmem], by rwa [hcfg, hstack], by rwa [hcfg, hsp], ?_, by rwa [hfault], hpc⟩
  rwa [LiveReturnsLegal, liveReturnsLegal, hsp, hstack]

theorem setPc (h : s.Inv) {w : Word} (hw : w.toNat ≤ 0x10FE) : (s.setPc w).Inv :=
  h.congr rfl rfl rfl rfl rfl hw

theorem recordFault (h : s.Inv) {c : FaultCode} {a : Word} (hl : FaultReg.Legal ⟨c, a⟩) :
    (s.recordFault c a).Inv := by
  obtain ⟨hLegal, hWf, hLength, hSp, hLive, -, hPc⟩ := h
  exact ⟨hLegal, hWf, hLength, hSp, hLive, hl, hPc⟩

theorem writeBytes (h : s.Inv) {a : Nat} {bs : List Byte} (ha : a + bs.length ≤ 4096) : (s.writeBytes a bs).Inv := by
  obtain ⟨hLegal, hWf, hLength, hSp, hLive, hFault, hPc⟩ := h
  have hWf' := s.memWf_writeBytes a bs hWf ha
  rw [writeBytes_eq] at hWf' ⊢
  exact ⟨hLegal, hWf', hLength, hSp, hLive, hFault, hPc⟩

/-- A return keeps the older entries live. -/
theorem drop (h : s.Inv) : s.drop.Inv := by
  obtain ⟨hLegal, hWf, hLength, hSp, hLive, hFault, hPc⟩ := h
  refine ⟨hLegal, hWf, hLength, (Nat.sub_le _ _).trans hSp, ?_, hFault, hPc⟩
  rw [liveReturnsLegal_iff] at hLive ⊢
  exact fun j hj => hLive j (hj.trans_le (Nat.sub_le _ _))

/-- A call makes one more entry live, a return address (40_control.md R113). -/
theorem push (h : s.Inv) (hsp : s.sp ≠ s.cfg.stackDepth) {w : Word} (hw : 2 ≤ w.toNat ∧ w.toNat ≤ 0x1000) :
    (s.push w).Inv := by
  obtain ⟨hLegal, hWf, hLength, hSp, hLive, hFault, hPc⟩ := h
  refine ⟨hLegal, hWf, (List.length_set ..).trans hLength, Nat.lt_of_le_of_ne hSp hsp, ?_, hFault, hPc⟩
  rw [liveReturnsLegal_iff] at hLive ⊢
  intro j hj e he
  rw [push_stack, List.getElem?_set] at he
  by_cases hjs : s.sp = j
  · rw [if_pos hjs, if_pos (by omega)] at he
    cases he
    exact hw
  · rw [if_neg hjs] at he
    rw [push_sp] at hj
    exact hLive j (by omega) e he

/-- The newest live entry is a return address (40_control.md R111). -/
theorem top_le (h : s.Inv) (hsp : s.sp ≠ 0) : s.top.toNat ≤ 0x1000 := by
  obtain ⟨-, -, hLength, hSp, hLive, -, -⟩ := h
  have hlt : s.sp - 1 < s.stack.length := by omega
  have he : s.stack[s.sp - 1]? = some s.top := by simp [top, hlt]
  exact ((liveReturnsLegal_iff s).mp hLive _ (by omega) _ he).2

/-- Reset meets the invariant, with any legal parameters. -/
theorem afterReset (h : s.cfg.Legal) : s.afterReset.Inv :=
  ⟨h, rfl, List.length_replicate, Nat.zero_le _, rfl, rfl, show 0x200 ≤ 0x10FE by decide⟩

theorem loadProgram (h : s.Inv) (bytes : List Byte) : (s.loadProgram bytes).Inv := by
  have report : ∀ {u : State} (e : Bool), u.Inv → (u.report e).Inv := fun _ hu => hu
  unfold State.loadProgram
  split
  · exact report _ h
  case isFalse hlen =>
    have ⟨⟨hfont, hdata, _⟩, _⟩ := h
    have hbase : Config.progBase = 512 := rfl
    have hmax : Config.maxProgLen = 3584 := rfl
    have himage := h.writeBytes (a := s.cfg.fontBase) (bs := s.cfg.fontData) (by omega)
    exact report _ (himage.writeBytes (by omega))

end State.Inv

/-- From a fetched instruction, whatever way it completes. -/
theorem Completes.inv {i : Instr} {s t : State} (h : Completes s i t) (hs : s.Inv) (hj : s.JustFetched) : t.Inv := by
  cases h with
  | pc w _ _ hw => exact hs.setPc (hw hj)
  | ret hsp => exact hs.drop.setPc ((hs.top_le hsp).trans (by decide))
  | call nnn hsp => exact (hs.push hsp hj).setPc (by rw [zextNNN_toNat]; omega)
  | store bs _ _ _ hr => exact hs.writeBytes hr
  | regLoad => rw [State.loadRegs_eq]; exact hs
  | _ => exact hs.congr rfl rfl rfl rfl rfl hs.pc_le

theorem Faults.inv {i : Instr} {s t : State} (h : Faults s i t) (hs : s.Inv) (hj : s.JustFetched) : t.Inv := by
  obtain ⟨c, a, -, -, hl⟩ := h
  obtain ⟨hlo, hhi⟩ := hj
  refine State.Inv.recordFault (hs.setPc ?_) hl
  rw [BitVec.toNat_sub_of_le (by simpa [BitVec.le_def])]
  omega

theorem State.Inv.advancePc {s : State} (hs : s.Inv) (hp : s.pc.toNat ≤ 0xFFE) : s.advancePc.Inv :=
  hs.setPc ((justFetched_advancePc hp).2.trans (by decide))

theorem cycle_inv {s t : State} (hs : s.Inv) (h : cycle s = .next t) : t.Inv := by
  rcases cycle_cases s with ⟨-, he⟩ | ⟨-, -, he⟩ | ⟨-, hp, -, he⟩ | ⟨-, hp, i, u, -, hu, he⟩ <;>
    rw [he] at h <;> cases h
  · exact hs
  · exact hs.recordFault (by simp [FaultReg.Legal, FaultReg.legal])
  · exact hs.advancePc hp
  · have hu' : u.Inv := (exec_cases hu).elim
      (·.inv (hs.advancePc hp) (justFetched_advancePc hp)) (·.inv (hs.advancePc hp) (justFetched_advancePc hp))
    split <;> exact hu'

theorem hostEvent_inv {e : HostEvent} {s t : State} (hs : s.Inv) (h : hostEvent e s = .next t) : t.Inv := by
  cases e with
  | cycle => exact cycle_inv hs h
  | reset =>
    cases h
    obtain ⟨hLegal, -⟩ := hs
    exact .afterReset hLegal
  | load bytes =>
    cases h
    exact hs.loadProgram bytes
  | tick | keyWrite =>
    cases h
    exact hs

end Sys2Proof.Machine

namespace Sys2Proof.Proofs

open Sys2Proof.Machine

/-- Settles O2: a reset meets the invariant, and `State.reset` is what a reset leaves with the default parameters. -/
theorem invariantHoldsAfterReset : Obligations.InvariantHoldsAfterReset :=
  ⟨State.Inv.afterReset (s := State.reset) (by decide), fun _ => State.Inv.afterReset⟩

/-- Settles O3: a step is one host event, and each keeps the invariant. -/
theorem stepKeepsInvariant : Obligations.StepKeepsInvariant := by
  intro s t hs h
  rw [step_eq_hostEvent] at h
  exact hostEvent_inv (s := s.setAgenda s.agenda.tail) hs h

end Sys2Proof.Proofs

/-! ### Dead stack entries (O24) -/

namespace Sys2Proof.Machine

namespace State

/-- The state with other stack entries. -/
def withStack (s : State) (l : List Word) : State := { s with stack := l }

variable (s : State) (l : List Word)

@[simp] theorem withStack_reg (r : Reg) : (s.withStack l).reg r = s.reg r := rfl
@[simp] theorem withStack_effAddr (i : Nat) : (s.withStack l).effAddr i = s.effAddr i := rfl
@[simp] theorem withStack_spriteOutOfRange (n : Nat) :
    (s.withStack l).spriteOutOfRange n = s.spriteOutOfRange n := rfl

theorem withStack_skipIf (c : Bool) : (s.withStack l).skipIf c = (s.skipIf c).withStack l := by
  cases c <;> rfl

theorem withStack_readBytes (a n : Nat) : (s.withStack l).readBytes a n = s.readBytes a n :=
  readBytes_congr a n fun _ _ => rfl

theorem withStack_writeBytes (a : Nat) (bs : List Byte) :
    (s.withStack l).writeBytes a bs = (s.writeBytes a bs).withStack l := by
  induction bs generalizing s a with
  | nil => rfl
  | cons b bs ih => exact ih (s.writeByte a b) (a + 1)

theorem withStack_loadRegs (i : Nat) (bs : List Byte) :
    (s.withStack l).loadRegs i bs = (s.loadRegs i bs).withStack l := by
  induction bs generalizing s i with
  | nil => rfl
  | cons b bs ih =>
    simp only [loadRegs]
    split
    · exact ih (s.setReg ⟨i, ‹_›⟩ b) (i + 1)
    · rfl

theorem withStack_drawing (x y : Reg) (n : Nat) : (s.withStack l).drawing x y n = s.drawing x y n := by
  simp only [drawing]
  rw [withStack_effAddr, withStack_readBytes]
  rfl

end State

/-- A next state changed by `f`. -/
def mapNext (f : State → State) : Result → Result
  | .next t => .next (f t)
  | .fault r => .fault r
  | .refused r => .refused r

/-! An instruction that does not write the stack does not read it either. -/

theorem withRange_withStack (c : FaultCode) (last : Nat) (s body : State) (l : List Word) :
    withRange c last (s.withStack l) (body.withStack l) = mapNext (·.withStack l) (withRange c last s body) := by
  rw [withRange, withRange, apply_ite (mapNext _)]
  rfl

theorem skipOnKey_withStack (want : Bool) (x : Reg) (s : State) (l : List Word) :
    skipOnKey want x (s.withStack l) = mapNext (·.withStack l) (skipOnKey want x s) := by
  simp only [skipOnKey, State.withStack_reg]
  cases keyOf (s.reg x) with
  | none => rfl
  | some k => exact congrArg _ (s.withStack_skipIf l _)

theorem execDraw_withStack (x y : Reg) (n : Nat) (s : State) (l : List Word) :
    execDraw x y n (s.withStack l) = mapNext (·.withStack l) (execDraw x y n s) := by
  simp only [execDraw, State.withStack_drawing, State.withStack_spriteOutOfRange]
  split <;> rfl

theorem execWaitForKey_withStack (x : Reg) (s : State) (l : List Word) :
    execWaitForKey x (s.withStack l) = mapNext (·.withStack l) (execWaitForKey x s) := by
  simp only [execWaitForKey, show (s.withStack l).lowestKey = s.lowestKey from rfl]
  cases s.lowestKey <;> rfl

/-- With other entries in the stack, such an instruction does the same to everything else. -/
theorem exec_withStack {i : Instr} (hi : .stack ∉ i.writtenParts) (s : State) (l : List Word) :
    exec i (s.withStack l) = mapNext (·.withStack l) (exec i s) := by
  cases i with
  | ret | call => simp [Instr.writtenParts] at hi
  | skipEqImm | skipNeqImm | skipEqReg | skipNeqReg => exact congrArg _ (s.withStack_skipIf l _)
  | skipIfKey x => exact skipOnKey_withStack true x s l
  | skipIfNotKey x => exact skipOnKey_withStack false x s l
  | waitForKey x => exact execWaitForKey_withStack x s l
  | draw x y n => exact execDraw_withStack x y n s l
  | bcdStore x =>
    simp only [exec, execBcdStore, ← withRange_withStack, ← State.withStack_writeBytes]
    rfl
  | regDump x =>
    simp only [exec, execRegDump, ← withRange_withStack, ← State.withStack_writeBytes]
    rfl
  | regLoad x =>
    simp only [exec, execRegLoad, ← withRange_withStack, ← State.withStack_loadRegs, State.withStack_readBytes]
    rfl
  | _ => rfl

/-! The relation is kept by every operation of a cycle. -/

namespace SameButDeadStack

variable {s s' : State}

theorem refl (s : State) : SameButDeadStack s s := ⟨rfl, rfl, rfl⟩

theorem eq_withStack (h : SameButDeadStack s s') : s' = s.withStack s'.stack := by
  obtain ⟨hs', -, -⟩ := h
  exact hs'

/-- What is read from elsewhere than the stack is the same in both. -/
theorem read_eq {α : Type} {g : State → α} (h : SameButDeadStack s s') (hg : g (s.withStack s'.stack) = g s) :
    g s' = g s :=
  (congrArg g h.eq_withStack).trans hg

theorem length_eq (h : SameButDeadStack s s') : s'.stack.length = s.stack.length := by
  obtain ⟨-, hlen, -⟩ := h
  exact hlen

/-- Below `SP` the entries agree one by one. -/
theorem getElem?_eq (h : SameButDeadStack s s') {j : Nat} (hj : j < s.sp) : s'.stack[j]? = s.stack[j]? := by
  obtain ⟨-, -, htake⟩ := h
  rw [← List.getElem?_take_of_lt hj, htake, List.getElem?_take_of_lt hj]

theorem of_getElem? (hs' : s' = s.withStack s'.stack) (hlen : s'.stack.length = s.stack.length)
    (h : ∀ j < s.sp, s'.stack[j]? = s.stack[j]?) : SameButDeadStack s s' := by
  refine ⟨hs', hlen, List.ext_getElem? fun j => ?_⟩
  rw [List.getElem?_take, List.getElem?_take]
  split
  · exact h j ‹_›
  · rfl

/-- An update that neither reads nor writes the stack keeps the relation. -/
theorem map {f : State → State} (h : SameButDeadStack s s')
    (hf : f (s.withStack s'.stack) = (f s).withStack s'.stack) (hstack : (f s).stack = s.stack)
    (hsp : (f s).sp = s.sp) : SameButDeadStack (f s) (f s') := by
  obtain ⟨hs', hlen, htake⟩ := h
  have hfs' : f s' = (f s).withStack s'.stack := (congrArg f hs').trans hf
  rw [hfs']
  exact ⟨rfl, by rwa [hstack], by rwa [hstack, hsp]⟩

theorem top_eq (h : SameButDeadStack s s') (hsp : s.sp ≠ 0) : s'.top = s.top := by
  have htop := h.getElem?_eq (j := s.sp - 1) (by omega)
  have hsp' : s'.sp = s.sp := h.read_eq (g := State.sp) rfl
  rw [State.top, State.top, hsp', List.getD_eq_getElem?_getD, List.getD_eq_getElem?_getD, htop]

theorem drop (h : SameButDeadStack s s') : SameButDeadStack s.drop s'.drop :=
  of_getElem? (congrArg State.drop h.eq_withStack) h.length_eq
    fun _ hj => h.getElem?_eq (Nat.lt_of_lt_of_le hj (Nat.sub_le _ _))

/-- The pushed entry is the same, even where the stack is full. -/
theorem push (h : SameButDeadStack s s') (w : Word) : SameButDeadStack (s.push w) (s'.push w) := by
  have hsp : s'.sp = s.sp := h.read_eq (g := State.sp) rfl
  refine of_getElem? ?_ ?_ fun j hj => ?_
  · rw [h.eq_withStack]; rfl
  · rw [State.push_stack, State.push_stack, List.length_set, List.length_set, h.length_eq]
  · rw [State.push_stack, State.push_stack, hsp, List.getElem?_set, List.getElem?_set, h.length_eq]
    split
    · rfl
    · rw [State.push_sp] at hj
      exact h.getElem?_eq (by omega)

end SameButDeadStack

/-- Whatever next state the first answers, the second answers one that differs from it in dead entries only. -/
def AnswersAlike (r r' : Result) : Prop := ∀ t, r = .next t → ∃ t', r' = .next t' ∧ SameButDeadStack t t'

theorem AnswersAlike.next {t t' : State} (h : SameButDeadStack t t') : AnswersAlike (.next t) (.next t') := by
  rintro _ ⟨⟩
  exact ⟨t', rfl, h⟩

theorem takeFault_answersAlike {s s' : State} (h : SameButDeadStack s s') (c : FaultCode) (a : Word) :
    AnswersAlike (takeFault c a s) (takeFault c a s') :=
  .next (h.map (f := fun u => u.rewindPc.recordFault c a) rfl rfl rfl)

theorem execRet_answersAlike {s s' : State} (h : SameButDeadStack s s') : AnswersAlike (execRet s) (execRet s') := by
  simp only [execRet, h.read_eq (g := State.sp) rfl]
  split
  · exact takeFault_answersAlike h _ _
  case isFalse hsp =>
    rw [h.top_eq hsp]
    exact .next (h.drop.map (f := (·.setPc s.top)) rfl rfl rfl)

theorem execCall_answersAlike {s s' : State} (h : SameButDeadStack s s') (nnn : Addr12) :
    AnswersAlike (execCall nnn s) (execCall nnn s') := by
  simp only [execCall, h.read_eq (g := State.sp) rfl, h.read_eq (g := State.pc) rfl, h.read_eq (g := State.cfg) rfl]
  split
  · exact takeFault_answersAlike h _ _
  · exact .next ((h.push s.pc).map (f := (·.setPc (zextNNN nnn))) rfl rfl rfl)

/-- An instruction outside whose frame the stack lies keeps it, completing or faulting. -/
theorem exec_keeps_stack {i : Instr} (hi : .stack ∉ i.writtenParts) {s t : State} (h : exec i s = .next t) :
    t.sp = s.sp ∧ t.stack = s.stack :=
  (exec_cases h).elim (·.onlyChanges.2 .stack hi) (·.onlyChanges.2 .stack (by decide))

theorem exec_answersAlike {s s' : State} (h : SameButDeadStack s s') (i : Instr) :
    AnswersAlike (exec i s) (exec i s') := by
  by_cases hi : .stack ∈ i.writtenParts
  · cases i with
    | ret => exact execRet_answersAlike h
    | call nnn => exact execCall_answersAlike h nnn
    | _ => simp [Instr.writtenParts] at hi
  · obtain ⟨hs', hlen, htake⟩ := h
    intro t ht
    obtain ⟨hsp, hstack⟩ := exec_keeps_stack hi ht
    have ht' : exec i s' = .next (t.withStack s'.stack) := by
      rw [show s' = s.withStack s'.stack from hs', exec_withStack hi, ht]
      rfl
    exact ⟨_, ht', rfl, by rwa [hstack], by rwa [hstack, hsp]⟩

theorem finishCycle_answersAlike {r r' : Result} (h : AnswersAlike r r') (w : Word) :
    AnswersAlike (finishCycle w r) (finishCycle w r') := by
  cases r with
  | next t =>
    obtain ⟨t', rfl, ht⟩ := h t rfl
    simp only [finishCycle, ht.read_eq (g := State.halted) rfl]
    split
    · exact .next ht
    · exact .next (ht.map (f := (·.noteDiag w false)) rfl rfl rfl)
  | fault r | refused r => rintro _ ⟨⟩

theorem executeWord_answersAlike {s s' : State} (h : SameButDeadStack s s') (w : Word) :
    AnswersAlike (executeWord w s) (executeWord w s') := by
  unfold executeWord
  cases decodeWord w with
  | error r => exact .next (h.map (f := (·.noteDiag w true)) rfl rfl rfl)
  | ok i => exact finishCycle_answersAlike (exec_answersAlike h i) w

theorem cycle_answersAlike {s s' : State} (h : SameButDeadStack s s') : AnswersAlike (cycle s) (cycle s') := by
  simp only [cycle, h.read_eq (g := State.halted) rfl, h.read_eq (g := fetch) rfl]
  split
  · exact .next h
  · cases fetch s with
    | error a => exact .next (h.map (f := (·.recordFault .fetchFault a)) rfl rfl rfl)
    | ok w => exact executeWord_answersAlike (h.map (f := State.advancePc) rfl rfl rfl) w

theorem withStack_loadProgram (s : State) (l : List Word) (bytes : List Byte) :
    (s.withStack l).loadProgram bytes = (s.loadProgram bytes).withStack l := by
  simp only [State.loadProgram, State.loadImage, State.withStack_writeBytes]
  split <;> rfl

theorem hostEvent_answersAlike {s s' : State} (h : SameButDeadStack s s') (e : HostEvent) :
    AnswersAlike (hostEvent e s) (hostEvent e s') := by
  cases e with
  | cycle => exact cycle_answersAlike h
  | reset =>
    have hr : s'.afterReset = s.afterReset := h.read_eq (g := State.afterReset) rfl
    simp only [hostEvent, hr]
    exact .next (.refl _)
  | load bytes =>
    obtain ⟨hsp, hstack⟩ := (OnlyChanges.of_loadProgram s bytes).2 .stack (by decide)
    exact .next (h.map (f := (·.loadProgram bytes)) (withStack_loadProgram s _ bytes) hstack hsp)
  | tick => exact .next (h.map (f := State.tick) rfl rfl rfl)
  | keyWrite k b => exact .next (h.map (f := (·.keyWrite k b)) rfl rfl rfl)

end Sys2Proof.Machine

namespace Sys2Proof.Proofs

open Sys2Proof.Machine

/-- Settles O24: no event reads an entry at or above `SP`. -/
theorem deadStackEntriesCannotBeObserved : Obligations.DeadStackEntriesCannotBeObserved := by
  intro s s' h
  rw [step_eq_hostEvent s, step_eq_hostEvent s', h.read_eq (g := State.agenda) rfl]
  exact hostEvent_answersAlike (h.map (f := (·.setAgenda s.agenda.tail)) rfl rfl rfl) _

end Sys2Proof.Proofs

/-! ### Stored bytes are fetched at once (O45) -/

namespace Sys2Proof.Machine

/-- A reg-dump in range completes with the block of registers written from `I` up (42_index_memory.md R164). -/
theorem exec_regDump_of_inRange {s : State} {x : Reg} (h : s.index.toNat + x.val ≤ 0xFFF) :
    exec (.regDump x) s = .next (s.writeBytes s.index.toNat (s.regBlock x)) := by
  rcases withRange_cases .storeFault x.val s (s.writeBytes (s.effAddr 0) (s.regBlock x)) with ⟨-, he⟩ | ⟨hr, -⟩
  · exact he
  · omega

/-- After the block of `V[0]` to `V[x]` is written in range from `a` up, the byte at `a + r` is `V[r]`. -/
theorem readByte_writeBytes_regBlock {s : State} {x r : Reg} {a : Nat} (hs : s.MemWf) (ha : a + x.val ≤ 0xFFF)
    (hr : r ≤ x) : (s.writeBytes a (s.regBlock x)).readByte (a + r.val) = s.reg r := by
  rw [State.readByte_writeBytes_in s a _ hs (by rw [State.regBlock_length]; omega) r.val
    (by rw [State.regBlock_length]; exact Nat.lt_succ_of_le hr), State.regBlock_getElem]

/-- A fetch with its two bytes in the memory answers their word, big-endian (20_memory.md R63). -/
theorem fetch_of_inRange {s : State} (h : s.pc.toNat ≤ 0xFFE) :
    fetch s = .ok (wordOfBytes (s.readByte s.pc.toNat) (s.readByte (s.pc.toNat + 1))) := by
  rcases fetch_cases s with ⟨-, hf⟩ | ⟨hp, -⟩
  · exact hf
  · omega

end Sys2Proof.Machine

namespace Sys2Proof.Proofs

open Sys2Proof.Machine

/-- Settles O45: the fetch reads its two bytes from the memory the dump has just written. -/
theorem storedBytesAreFetchedAtOnce : Obligations.StoredBytesAreFetchedAtOnce := by
  intro s t x k hk hs hx ht
  rw [exec_regDump_of_inRange hx] at ht
  cases ht
  have hpc : (s.index + BitVec.ofNat 16 k.val).toNat = s.index.toNat + k.val := by
    rw [BitVec.toNat_add, BitVec.toNat_ofNat]; omega
  have hhi := readByte_writeBytes_regBlock (r := k) hs hx (Nat.le_of_succ_le hk)
  have hlo := readByte_writeBytes_regBlock (r := ⟨k.val + 1, by omega⟩) hs hx hk
  refine ⟨_, fetch_of_inRange (by rw [State.setPc_pc, hpc]; omega), ?_⟩
  rw [wordOfBytes_toNat, State.setPc_pc, State.setPc_readByte, State.setPc_readByte, hpc, hhi, Nat.add_assoc, hlo]

end Sys2Proof.Proofs

/-! ### Encoding (O4, O5, O17 to O20) -/

namespace Sys2Proof

/-! ### The rows of the opcode map -/

theorem OpRow.accepts_iff (r : OpRow) (w : Word) : r.accepts w = true ↔ w &&& r.mask = r.pattern := beq_iff_eq

section
open Laws.EncodesRow

/-- Every canonical word matches the row of its instruction, which is a row of the map (30_encoding.md R85). -/
theorem encodesRow : ∀ i : Instr, Statement i
  | .clearScreen => clearScreen | .ret => ret | .jump n => jump n | .call n => call n
  | .skipEqImm x n => skipEqImm x n | .skipNeqImm x n => skipNeqImm x n | .skipEqReg x y => skipEqReg x y
  | .loadImm x n => loadImm x n | .addImm x n => addImm x n | .setReg x y => setReg x y | .orReg x y => orReg x y
  | .andReg x y => andReg x y | .xorReg x y => xorReg x y | .addReg x y => addReg x y | .subReg x y => subReg x y
  | .shr x => shr x | .subnReg x y => subnReg x y | .shl x => shl x | .skipNeqReg x y => skipNeqReg x y
  | .setIndex n => setIndex n | .jumpOffset n => jumpOffset n | .random x n => random x n | .draw x y n => draw x y n
  | .skipIfKey x => skipIfKey x | .skipIfNotKey x => skipIfNotKey x | .getDelay x => getDelay x
  | .waitForKey x => waitForKey x | .setDelay x => setDelay x | .setSound x => setSound x
  | .addIndex x => addIndex x | .fontChar x => fontChar x | .bcdStore x => bcdStore x | .regDump x => regDump x
  | .regLoad x => regLoad x
end

theorem rowOf_mem_opcodeMap (i : Instr) : rowOf i ∈ opcodeMap := (encodesRow i).2

theorem opcodeMap_nodup : opcodeMap.Nodup :=
  List.Nodup.of_map OpRow.pattern (by decide)

section
variable {w p : Word}

/-- A pattern under the mask of the class has the class of the word. -/
theorem classOf_of_and_F000 (h : w &&& 0xF000#16 = p) : classOf w = classOf p := by
  rw [← h, (and_F000 w _).mpr rfl, classOf_wordOPA]

/-- A pattern under the mask of the class and `N` has those of the word. -/
theorem classOf_fieldN_of_and_F00F (h : w &&& 0xF00F#16 = p) : classOf w = classOf p ∧ fieldN w = fieldN p := by
  rw [← h, (and_F00F w _ _).mpr ⟨rfl, rfl⟩, classOf_wordOPR, fieldN_wordOPR]
  exact ⟨rfl, rfl⟩

/-- A pattern under the mask of the class and `NN` has those of the word. -/
theorem classOf_fieldNN_of_and_F0FF (h : w &&& 0xF0FF#16 = p) : classOf w = classOf p ∧ fieldNN w = fieldNN p := by
  rw [← h, (and_F0FF w _ _).mpr ⟨rfl, rfl⟩, classOf_wordOPI, fieldNN_wordOPI]
  exact ⟨rfl, rfl⟩
end

/-- A word that matches the row of an instruction decodes to an instruction of that row (30_encoding.md R84, R85):
the selected fields of the word are those of the row's pattern. -/
theorem map_rowOf_decodeWord {i : Instr} {w : Word} (h : (rowOf i).accepts w = true) :
    (decodeWord w).map rowOf = .ok (rowOf i) := by
  rw [OpRow.accepts_iff] at h
  cases i with dsimp only [rowOf] at h
  | clearScreen | ret =>
    rw [show w = _ from BitVec.and_allOnes.symm.trans h]; rfl
  | jump | call | skipEqImm | skipNeqImm | skipEqReg | loadImm | addImm | skipNeqReg | setIndex | jumpOffset | random
  | draw => rw [decodeWord, classOf_of_and_F000 h]; rfl
  | setReg | orReg | andReg | xorReg | addReg | subReg | shr | subnReg | shl =>
    obtain ⟨hc, hn⟩ := classOf_fieldN_of_and_F00F h
    have h8 : decodeWord w = decodeClass8 w := by rw [decodeWord, hc]; rfl
    rw [h8, decodeClass8, hn]; rfl
  | skipIfKey | skipIfNotKey =>
    obtain ⟨hc, hn⟩ := classOf_fieldNN_of_and_F0FF h
    have hE : decodeWord w = decodeClassE w := by rw [decodeWord, hc]; rfl
    rw [hE, decodeClassE, hn]; rfl
  | getDelay | waitForKey | setDelay | setSound | addIndex | fontChar | bcdStore | regDump | regLoad =>
    obtain ⟨hc, hn⟩ := classOf_fieldNN_of_and_F0FF h
    have hF : decodeWord w = decodeClassF w := by rw [decodeWord, hc]; rfl
    rw [hF, decodeClassF, hn]; rfl

/-! ### What the decoder can answer

An instruction whose row the word matches and whose canonical word it is but for the ignored bits
(30_encoding.md R87), or that the word is unrecognized (R86). -/

/-- The bits of a word that the decoder does not ignore (30_encoding.md R87). -/
def Instr.readBits : Instr → Word
  | .skipEqReg _ _ | .skipNeqReg _ _ => 0xFFF0
  | .shr _ | .shl _ => 0xFF0F
  | _ => BitVec.allOnes 16

/-- What is true of an instruction the decoder answers for `w`. -/
structure DecodedFrom (w : Word) (i : Instr) : Prop where
  matchesRow : w &&& (rowOf i).mask = (rowOf i).pattern
  wellFormed : i.WellFormed
  reencodes : encodeWord i = w &&& i.readBits

/-- What is true of any answer of the decoder for `w`. -/
def SoundAnswer (w : Word) : Except Reject Instr → Prop
  | .ok i => DecodedFrom w i
  | .error r => r = .unrecognized w

/-! The canonical word of each format, made from the fields of `w`. -/

section
variable {w : Word} {c n : Nibble} {nn : Byte}

theorem wordOPA_of_class (hc : classOf w = c) : wordOPA c (fieldNNN w) = w &&& BitVec.allOnes 16 := by
  rw [BitVec.and_allOnes, ← hc, wordOPA_fields]

theorem wordOPI_of_class (hc : classOf w = c) (hn : fieldNN w = nn) :
    wordOPI c (fieldX w) nn = w &&& BitVec.allOnes 16 := by
  rw [BitVec.and_allOnes, ← hc, ← hn, wordOPI_fields]

theorem wordOPR_of_class (hc : classOf w = c) (hn : fieldN w = n) :
    wordOPR c (fieldX w) (fieldY w) n = w &&& BitVec.allOnes 16 := by
  rw [BitVec.and_allOnes, ← hc, ← hn, wordOPR_fields]

/-- Clearing the low nibble. -/
theorem wordOPR_zero_N (hc : classOf w = c) : wordOPR c (fieldX w) (fieldY w) 0 = w &&& 0xFFF0#16 := by
  subst hc
  apply BitVec.eq_of_getLsbD_eq
  intro i hi
  simp only [wordOPR, regField, classOf, fieldX, fieldY, BitVec.getLsbD_append, BitVec.getLsbD_and,
    BitVec.ofFin_toFin, BitVec.getLsbD_extractLsb']
  interval_cases i <;> simp

/-- Clearing `Y`. -/
theorem wordOPR_zero_Y (hc : classOf w = c) (hn : fieldN w = n) :
    wordOPR c (fieldX w) 0 n = w &&& 0xFF0F#16 := by
  subst hc hn
  apply BitVec.eq_of_getLsbD_eq
  intro i hi
  simp only [wordOPR, regField, classOf, fieldX, fieldN, BitVec.getLsbD_append, BitVec.getLsbD_and,
    BitVec.ofFin_toFin, BitVec.getLsbD_extractLsb']
  interval_cases i <;> simp
end

section
variable {w : Word}

theorem decodeClass0_sound : SoundAnswer w (decodeClass0 w) := by
  unfold decodeClass0
  split
  · exact ⟨rfl, rfl, rfl⟩
  · exact ⟨rfl, rfl, rfl⟩
  · rfl

theorem decodeClass8_sound (hc : classOf w = 0x8#4) : SoundAnswer w (decodeClass8 w) := by
  unfold decodeClass8
  split
  case h_7 hn | h_9 hn => exact ⟨(and_F00F w _ _).mpr ⟨hc, hn⟩, rfl, wordOPR_zero_Y hc hn⟩
  case h_10 => rfl
  all_goals
    rename_i hn
    exact ⟨(and_F00F w _ _).mpr ⟨hc, hn⟩, rfl, wordOPR_of_class hc hn⟩

theorem decodeClassE_sound (hc : classOf w = 0xE#4) : SoundAnswer w (decodeClassE w) := by
  unfold decodeClassE
  split
  case h_3 => rfl
  all_goals
    rename_i hn
    exact ⟨(and_F0FF w _ _).mpr ⟨hc, hn⟩, rfl, wordOPI_of_class hc hn⟩

theorem decodeClassF_sound (hc : classOf w = 0xF#4) : SoundAnswer w (decodeClassF w) := by
  unfold decodeClassF
  split
  case h_10 => rfl
  all_goals
    rename_i hn
    exact ⟨(and_F0FF w _ _).mpr ⟨hc, hn⟩, rfl, wordOPI_of_class hc hn⟩

/-- The 16 opcode classes. -/
theorem nibble_cases (c : Nibble) :
    c = 0x0 ∨ c = 0x1 ∨ c = 0x2 ∨ c = 0x3 ∨ c = 0x4 ∨ c = 0x5 ∨ c = 0x6 ∨ c = 0x7 ∨ c = 0x8 ∨ c = 0x9 ∨ c = 0xA ∨
    c = 0xB ∨ c = 0xC ∨ c = 0xD ∨ c = 0xE ∨ c = 0xF := by
  revert c; decide

/-- By the class of the word. -/
theorem decodeWord_sound (w : Word) : SoundAnswer w (decodeWord w) := by
  unfold decodeWord
  split
  case h_1 => exact decodeClass0_sound
  case h_9 hc => exact decodeClass8_sound hc
  case h_15 hc => exact decodeClassE_sound hc
  case h_16 => exact decodeClassF_sound (by have := nibble_cases (classOf w); tauto)
  case h_2 hc | h_3 hc | h_11 hc | h_12 hc => exact ⟨(and_F000 w _).mpr hc, rfl, wordOPA_of_class hc⟩
  case h_4 hc | h_5 hc | h_7 hc | h_8 hc | h_13 hc => exact ⟨(and_F000 w _).mpr hc, rfl, wordOPI_of_class hc rfl⟩
  case h_6 hc | h_10 hc => exact ⟨(and_F000 w _).mpr hc, rfl, wordOPR_zero_N hc⟩
  case h_14 hc =>
    exact ⟨(and_F000 w _).mpr hc, decide_eq_true (Nat.le_of_lt_succ (fieldN w).isLt), wordOPR_of_class hc (by simp)⟩
end

theorem decodedFrom_of_decodeWord {w : Word} {i : Instr} (h : decodeWord w = .ok i) : DecodedFrom w i := by
  have hs := decodeWord_sound w
  rw [h] at hs
  exact hs

theorem decodeWord_cases (w : Word) : (∃ i, decodeWord w = .ok i) ∨ decodeWord w = .error (.unrecognized w) := by
  have hs := decodeWord_sound w
  cases hd : decodeWord w with
  | ok i => exact .inl ⟨i, rfl⟩
  | error r => rw [hd] at hs; exact .inr (congrArg _ hs)

/-! ### The decoder is the opcode map -/

theorem accepts_iff_decodeWord {r : OpRow} (hr : r ∈ opcodeMap) (w : Word) :
    r.accepts w = true ↔ ∃ i, decodeWord w = .ok i ∧ rowOf i = r := by
  obtain ⟨i, -, rfl⟩ := List.mem_map.mp hr
  constructor
  · intro h
    have hrow := map_rowOf_decodeWord h
    cases hd : decodeWord w with
    | ok j => rw [hd] at hrow; exact ⟨j, rfl, Except.ok.inj hrow⟩
    | error e => rw [hd] at hrow; nomatch hrow
  · rintro ⟨j, hj, hrow⟩
    rw [← hrow, OpRow.accepts_iff]
    exact (decodedFrom_of_decodeWord hj).matchesRow

/-! ### Decoding a canonical word -/

/-- By the class of the instruction: the fields of a word of each format are the operands it was made of. -/
theorem decodeWord_encodeWord {i : Instr} (hi : i.WellFormed) : decodeWord (encodeWord i) = .ok i := by
  cases i with
  | clearScreen | ret => rfl
  | jump | call | skipEqImm | skipNeqImm | skipEqReg | loadImm | addImm | skipNeqReg | setIndex | jumpOffset
  | random => simp [decodeWord, encodeWord]
  | draw x y n =>
    have hn : n ≤ 15 := of_decide_eq_true hi
    simp [decodeWord, encodeWord, Nat.mod_eq_of_lt (Nat.lt_succ_of_le hn)]
  | setReg | orReg | andReg | xorReg | addReg | subReg | shr | subnReg | shl =>
    simp [decodeWord, encodeWord, decodeClass8]
  | skipIfKey | skipIfNotKey => simp [decodeWord, encodeWord, decodeClassE]
  | getDelay | waitForKey | setDelay | setSound | addIndex | fontChar | bcdStore | regDump | regLoad =>
    simp [decodeWord, encodeWord, decodeClassF]

/-- The numbering of the opcode table is that of the word (R85). -/
theorem decodeTableWord_toNat (w : Word) : decodeTableWord 16 w.toNat = (decodeWord w).toOption := by
  have hd : decode (bytesOfWord w) = (decodeWord w).map (fun i => (i, [])) := by
    simpa using decode_bytesOfWord w []
  rw [decodeTableWord, Nat.mod_eq_of_lt w.isLt, BitVec.ofNat_toNat, BitVec.setWidth_eq, hd]
  cases decodeWord w <;> rfl

end Sys2Proof

namespace Sys2Proof.Machine

/-- A `Step` that fetches `w` decodes and executes it with `PC` advanced (30_encoding.md R80). -/
theorem step_eq_executeWord {s : State} {w : Word} (hs : s.ReadyToStep) (hw : s.HasWordAtPc w) :
    step s = executeWord w s.advancePc := by
  obtain ⟨hagenda, hrun⟩ := hs
  rw [step_of_agenda_nil s hagenda, cycle, (not_halted_iff s).mpr hrun, fetch_of_hasWordAtPc hw]
  rfl

end Sys2Proof.Machine

namespace Sys2Proof.Proofs

open Sys2Proof.Machine

/-- Settles O17: bytes and table numbers are the word, and the word gives its instruction back. -/
theorem decodeInvertsEncode : Obligations.DecodeInvertsEncode := by
  intro i rest hi
  have hd := decodeWord_encodeWord hi
  refine ⟨hd, ?_, ?_⟩
  · rw [encode, decode_bytesOfWord, hd]; rfl
  · rw [decodeTableWord_toNat, hd]; rfl

/-- Settles O18: `DecodedFrom` with `Instr.readBits` written out. -/
theorem decodedInstructionReencodes : Obligations.DecodedInstructionReencodes := by
  intro w i h
  obtain ⟨-, hwf, he⟩ := decodedFrom_of_decodeWord h
  refine ⟨hwf, ?_⟩
  cases i with
  | skipEqReg | skipNeqReg | shr | shl => exact he
  | _ => exact he.trans BitVec.and_allOnes

/-- Settles O19. Two rows that match one word are both the row of what it decodes to, and the rows differ. -/
theorem decoderAgreesWithOpcodeMap : Obligations.DecoderAgreesWithOpcodeMap := by
  refine ⟨fun w r hr => accepts_iff_decodeWord hr w, fun w => ⟨fun hnone => ?_, fun herr r hr => ?_⟩, ?_⟩
  · refine (decodeWord_cases w).resolve_left fun ⟨i, hi⟩ => ?_
    have hacc := (accepts_iff_decodeWord (rowOf_mem_opcodeMap i) w).mpr ⟨i, hi, rfl⟩
    simp [hnone _ (rowOf_mem_opcodeMap i)] at hacc
  · rw [Bool.eq_false_iff]
    intro hacc
    obtain ⟨i, hi, -⟩ := (accepts_iff_decodeWord hr w).mp hacc
    simp [herr] at hi
  · refine opcodeMap_nodup.imp_of_mem fun {r r'} hr hr' hne w ⟨h, h'⟩ => hne ?_
    obtain ⟨i, hi, rfl⟩ := (accepts_iff_decodeWord hr w).mp h
    obtain ⟨i', hi', rfl⟩ := (accepts_iff_decodeWord hr' w).mp h'
    rw [Except.ok.inj (hi.symm.trans hi')]

/-- Settles O4: the cycle ends with the diagnostic outputs exactly when the core still runs. -/
theorem stepRunsDecodedInstruction : Obligations.StepRunsDecodedInstruction := by
  intro s t w i hs hw hd ht
  have hstep : step s = finishCycle w (.next t) := by
    rw [step_eq_executeWord hs hw, executeWord, hd, ← ht]; rfl
  rw [hstep, finishCycle]
  by_cases hr : t.Running
  · rw [(not_halted_iff t).mpr hr, if_pos hr]; rfl
  · rw [(halted_iff t).mpr hr, if_neg hr]; rfl

/-- Settles O5: a word that decodes to no instruction is rejected as unrecognized. -/
theorem unrecognizedWordOnlyAdvancesPc : Obligations.UnrecognizedWordOnlyAdvancesPc := by
  intro s w hs hw hd
  have herr := (decodeWord_cases w).resolve_left fun ⟨i, hi⟩ => hd i hi
  rw [step_eq_executeWord hs hw, executeWord, herr]; rfl

/-- Settles O20, by evaluating the decoder on the fifteen words. -/
theorem sampleWordsDecodeToTheirInstructions : Obligations.SampleWordsDecodeToTheirInstructions := by
  unfold Obligations.SampleWordsDecodeToTheirInstructions; decide

end Sys2Proof.Proofs

/-! ### Control transfer (O25 to O30) -/

namespace Sys2Proof.Machine

/-- A fetch faults exactly above 0xFFE, the last address with two bytes in the memory (30_encoding.md R80). -/
theorem exists_fetch_error_iff (s : State) : (∃ a, fetch s = .error a) ↔ 0xFFE < s.pc.toNat := by
  rcases fetch_cases s with ⟨hp, hf⟩ | ⟨hp, hf⟩ <;> simp [hf, hp]

/-- An instruction that is a skip on `c` changes `PC` only (40_control.md R110). -/
theorem exec_skip {i : Instr} {s : State} {c : Bool} {w : Word} (hi : exec i s = .next (s.skipIf c))
    (hw : (if c then s.pc + 2 else s.pc) = w) :
    ∃ t, exec i s = .next t ∧ t.pc = w ∧ OnlyChanges s t [] [.pc] := by
  subst hw
  rw [skipIf_eq] at hi
  exact ⟨_, hi, State.setPc_pc .., .of_setPc s _⟩

/-! The two ways of call and of return (40_control.md R111, R113). -/

section
variable {s : State}

theorem exec_call_of_free (nnn : Addr12) (h : s.sp < s.cfg.stackDepth) :
    exec (.call nnn) s = .next ((s.push s.pc).setPc (zextNNN nnn)) :=
  if_neg h.ne

theorem exec_call_of_full (nnn : Addr12) (h : s.sp = s.cfg.stackDepth) :
    exec (.call nnn) s = takeFault .stackOverflow 0 s :=
  if_pos h

theorem exec_ret_of_live (h : s.sp ≠ 0) : exec .ret s = .next (s.drop.setPc s.top) :=
  if_neg h

theorem exec_ret_of_empty (h : s.sp = 0) : exec .ret s = takeFault .stackUnderflow 0 s :=
  if_pos h

/-- The newest live entry is the one below `SP`. -/
theorem State.getElem?_top (h : s.sp - 1 < s.stack.length) : s.stack[s.sp - 1]? = some s.top := by
  simp [State.top, h]

/-- What was pushed is the newest entry. -/
theorem State.top_push (h : s.sp < s.stack.length) (w : Word) : (s.push w).top = w := by
  simp [State.top, h]

/-- A push overwrites no live entry. -/
theorem State.take_stack_push (w : Word) : (s.push w).stack.take s.sp = s.stack.take s.sp :=
  List.take_set_of_le (Nat.le_refl _)

end

/-- Two states with the same live entries have, below the newest, the same live entries, and the same newest one. -/
theorem top_eq_and_take_eq_of_live {t u : State} (hsp : u.sp = t.sp) (hlen : u.stack.length = t.stack.length)
    (hlive : u.stack.take u.sp = t.stack.take t.sp) (h : t.sp ≠ 0) :
    u.top = t.top ∧ u.stack.take (t.sp - 1) = t.stack.take (t.sp - 1) := by
  have hsame : SameButDeadStack t (t.withStack u.stack) := ⟨rfl, hlen, by rwa [hsp] at hlive⟩
  obtain ⟨-, -, htake⟩ := hsame.drop
  refine ⟨?_, htake⟩
  calc u.top = (t.withStack u.stack).top := by rw [State.top, hsp]; rfl
    _ = t.top := hsame.top_eq h

end Sys2Proof.Machine

namespace Sys2Proof.Proofs

open Sys2Proof.Machine

/-- Settles O30: return pops the entry the call pushed, and the entries below it are those of before the call. -/
theorem returnResumesAfterItsCall : Obligations.ReturnResumesAfterItsCall := by
  intro s t u nnn hdepth hfree hcall hsp hlen hlive
  rw [exec_call_of_free nnn hfree] at hcall
  cases hcall
  have hsp' : u.sp = s.sp + 1 := hsp
  have hne : u.sp ≠ 0 := by omega
  obtain ⟨htop, htake⟩ := top_eq_and_take_eq_of_live hsp hlen hlive (Nat.succ_ne_zero s.sp)
  have hrsp : (u.drop.setPc u.top).sp = s.sp := by rw [State.setPc_sp, State.drop_sp, hsp', Nat.add_sub_cancel]
  refine ⟨_, exec_ret_of_live hne, ?_, hrsp, ?_, (Completes.ret hne).onlyChanges⟩
  · exact htop.trans (State.top_push (hdepth ▸ hfree) s.pc)
  · rw [hrsp]
    exact htake.trans (State.take_stack_push s.pc)

/-- Settles O25: of the targets 0x000 to 0xFFF only the last has no second byte to fetch. -/
theorem jumpGoesToItsAddress : Obligations.JumpGoesToItsAddress := by
  refine ⟨fun nnn => decodeWord_encodeWord (i := .jump nnn) rfl, fun s nnn => ?_⟩
  refine ⟨_, rfl, zextNNN_toNat nnn, .of_setPc s _, ?_⟩
  rw [exists_fetch_error_iff, State.setPc_pc, zextNNN_toNat]
  bv_omega

/-- Settles O26: each of the four is a skip on its comparison. -/
theorem comparesSkipOneInstruction : Obligations.ComparesSkipOneInstruction := by
  refine ⟨fun x y nn n => ⟨?_, ?_, ?_, ?_⟩, fun s x y nn => ⟨?_, ?_, ?_, ?_⟩⟩
  · exact decodeWord_encodeWord (i := .skipEqImm x nn) rfl
  · exact decodeWord_encodeWord (i := .skipNeqImm x nn) rfl
  · simp [decodeWord]
  · simp [decodeWord]
  · exact exec_skip (c := s.reg x == nn) rfl (by simp)
  · exact exec_skip (c := s.reg x != nn) rfl (by simp)
  · exact exec_skip (c := s.reg x == s.reg y) rfl (by simp)
  · exact exec_skip (c := s.reg x != s.reg y) rfl (by simp)

/-- Settles O27: the unreduced sum is what the next fetch is held to. -/
theorem jumpOffsetAddsRegisterZero : Obligations.JumpOffsetAddsRegisterZero := by
  refine ⟨fun nnn => decodeWord_encodeWord (i := .jumpOffset nnn) rfl, fun s nnn => ?_⟩
  refine ⟨_, rfl, jumpOffset_target_toNat nnn (s.reg 0), .of_setPc s _, ?_⟩
  rw [exists_fetch_error_iff, State.setPc_pc, jumpOffset_target_toNat]

/-- Settles O28: `STACK[SP]` is the one entry a push writes. -/
theorem callPushesOrOverflows : Obligations.CallPushesOrOverflows := by
  refine fun s nnn hdepth _ => ⟨fun hfree => ?_, fun hfull => exec_call_of_full nnn hfull⟩
  have hc := Completes.call (s := s) nnn hfree.ne
  exact ⟨_, exec_call_of_free nnn hfree, zextNNN_toNat nnn, rfl, List.getElem?_set_self (hdepth ▸ hfree),
    fun j hj => hc.stack_getElem?_eq hj, hc.onlyChanges⟩

/-- Settles O29: the newest entry goes to `PC` and stays in `STACK`, dead. -/
theorem returnPopsOrUnderflows : Obligations.ReturnPopsOrUnderflows := by
  refine fun s hdepth hle => ⟨fun hlive => ?_, fun hempty => exec_ret_of_empty hempty⟩
  exact ⟨_, exec_ret_of_live hlive.ne', State.getElem?_top (by omega), rfl, rfl,
    (Completes.ret hlive.ne').onlyChanges⟩

end Sys2Proof.Proofs

/-! ### Immediate, ALU and random instructions (O32 to O37) -/

namespace Sys2Proof.Machine

/-! ### The results and the flags as numbers (41_alu.md R131) -/

section
variable (a b : Byte)

@[simp] theorem sum8_toNat : (sum8 a b).toNat = (a.toNat + b.toNat) % 256 := by simp [sum8]

@[simp] theorem diff8_toNat :
    (diff8 a b).toNat = if a.toNat ≥ b.toNat then a.toNat - b.toNat else a.toNat + 256 - b.toNat := by
  have := a.isLt
  rw [diff8, BitVec.toNat_ofNat, Nat.mod_eq_of_lt]
  split <;> omega

@[simp] theorem half8_toNat : (half8 a).toNat = a.toNat / 2 := by
  have := a.isLt
  rw [half8, BitVec.toNat_ofNat, Nat.mod_eq_of_lt (by omega)]

@[simp] theorem double8_toNat : (double8 a).toNat = a.toNat * 2 % 256 := by simp [double8, Nat.mul_comm]

/-- A flag is the number of its bit (10_state.md R21). -/
theorem flagByte_toNat (f : Bool) : (flagByte f).toNat = f.toNat := by cases f <;> rfl

@[simp] theorem flagByte_carryOut_toNat :
    (flagByte (carryOut a b)).toNat = if a.toNat + b.toNat > 255 then 1 else 0 := by
  rw [flagByte_toNat, carryOut, Bool.toNat, Bool.cond_decide]

@[simp] theorem flagByte_notBorrow_toNat :
    (flagByte (notBorrow a b)).toNat = if a.toNat ≥ b.toNat then 1 else 0 := by
  rw [flagByte_toNat, notBorrow, Bool.toNat, Bool.cond_decide]

@[simp] theorem flagByte_evictedLow_toNat : (flagByte (evictedLow a)).toNat = a.toNat % 2 := by
  rw [flagByte_toNat, evictedLow, BitVec.getLsbD, Nat.toNat_testBit, pow_zero, Nat.div_one]

/-- Bit 7 is the highest of a byte, so the division leaves nothing above it. -/
@[simp] theorem flagByte_evictedHigh_toNat : (flagByte (evictedHigh a)).toNat = a.toNat / 128 := by
  have := a.isLt
  rw [flagByte_toNat, evictedHigh, BitVec.getLsbD, Nat.toNat_testBit]
  omega

end

/-! ### What a register write leaves in the registers (41_alu.md R130) -/

/-- The register written holds what was written to it. -/
theorem State.reg_setReg_self (s : State) (x : Reg) (b : Byte) : (s.setReg x b).reg x = b := by
  rw [State.reg_setReg, if_pos rfl]

/-- An instruction that writes a result to `V[x]`, then a flag to VF: with `x` = 15 only the flag stays. -/
theorem exec_writeResultThenFlag {i : Instr} {s : State} {x : Reg} {b : Byte} {f : Bool} {n m : Nat}
    (hi : exec i s = .next (s.writeResultThenFlag x b f)) (hb : b.toNat = n) (hf : (flagByte f).toNat = m) :
    ∃ t, exec i s = .next t ∧ (x ≠ VF → (t.reg x).toNat = n) ∧ (t.reg VF).toNat = m ∧
      OnlyChanges s t [x, VF] [] := by
  refine ⟨_, hi, fun hx => ?_, ?_, .of_writeResultThenFlag s x b f⟩
  · rwa [State.reg_writeResultThenFlag, if_neg hx, if_pos rfl]
  · rwa [State.reg_writeResultThenFlag, if_pos rfl]

end Sys2Proof.Machine

namespace Sys2Proof.Proofs

open Sys2Proof.Machine

/-- Settles O32: each writes its one destination. -/
theorem immediatesLoadAndAddWithoutFlag : Obligations.ImmediatesLoadAndAddWithoutFlag := by
  refine ⟨fun x nn => ⟨?_, ?_⟩, fun s x nn => ⟨?_, ?_⟩⟩
  · exact decodeWord_encodeWord (i := .loadImm x nn) rfl
  · exact decodeWord_encodeWord (i := .addImm x nn) rfl
  · exact ⟨_, rfl, State.reg_setReg_self .., .of_setReg s x _⟩
  · exact ⟨_, rfl, by rw [State.reg_setReg_self, sum8_toNat], .of_setReg s x _⟩

/-- Settles O33: the operations of the four are those of bit vectors. -/
theorem logicWritesOnlyItsDestination : Obligations.LogicWritesOnlyItsDestination := by
  refine fun s x y => ⟨?_, ?_, ?_, ?_⟩
  · exact ⟨_, rfl, State.reg_setReg_self .., .of_setReg s x _⟩
  · exact ⟨_, rfl, fun j => by rw [State.reg_setReg_self, BitVec.getLsbD_or], .of_setReg s x _⟩
  · exact ⟨_, rfl, fun j => by rw [State.reg_setReg_self, BitVec.getLsbD_and], .of_setReg s x _⟩
  · exact ⟨_, rfl, fun j => by rw [State.reg_setReg_self, BitVec.getLsbD_xor], .of_setReg s x _⟩

/-- Settles O34: sum and carry, difference and NOT borrow. -/
theorem addAndSubSetResultThenFlag : Obligations.AddAndSubSetResultThenFlag := by
  refine ⟨fun x y => ⟨?_, ?_⟩, ?_⟩
  · exact decodeWord_encodeWord (i := .addReg x y) rfl
  · exact decodeWord_encodeWord (i := .subReg x y) rfl
  · rintro s x y _ _ rfl rfl
    exact ⟨exec_writeResultThenFlag rfl (sum8_toNat ..) (flagByte_carryOut_toNat ..),
      exec_writeResultThenFlag rfl (diff8_toNat ..) (flagByte_notBorrow_toNat ..)⟩

/-- Settles O35: the difference and NOT borrow of SUB with the operands exchanged. -/
theorem subnReversesTheOperands : Obligations.SubnReversesTheOperands := by
  refine ⟨fun x y => decodeWord_encodeWord (i := .subnReg x y) rfl, ?_⟩
  rintro s x y _ _ rfl rfl
  exact exec_writeResultThenFlag rfl (diff8_toNat ..) (flagByte_notBorrow_toNat ..)

/-- Settles O36. The decoder does not look at `Y`, so the words are not only the canonical ones. -/
theorem shiftsEvictOneBitIntoFlag : Obligations.ShiftsEvictOneBitIntoFlag := by
  refine ⟨fun x y => ⟨?_, ?_⟩, fun s x => ⟨?_, ?_⟩⟩
  · simp [decodeWord, decodeClass8]
  · simp [decodeWord, decodeClass8]
  · exact exec_writeResultThenFlag rfl (half8_toNat _) (flagByte_evictedLow_toNat _)
  · exact exec_writeResultThenFlag rfl (double8_toNat _) (flagByte_evictedHigh_toNat _)

/-- Settles O37: a bit that is 0 in `NN` is 0 in the byte masked by `NN`. -/
theorem randomMasksTheInputByte : Obligations.RandomMasksTheInputByte := by
  intro s x nn
  have hreg : (randomWith (Config.rndInput s.draws) x nn s).reg x = Config.rndInput s.draws &&& nn :=
    State.reg_setReg_self s x _
  refine ⟨_, rfl, hreg, fun j hj => ?_, rfl, .of_randomWith s _ x nn⟩
  rw [hreg, BitVec.getLsbD_and, hj, Bool.and_false]

end Sys2Proof.Proofs

/-! ### Index register and memory (O38 to O44) -/

namespace Sys2Proof.Machine

/-- With legal parameters the glyph address is not reduced, even for a `V[X]` above 15 (42_index_memory.md R162). -/
theorem fontAddr_toNat {p : Config.Params} (hp : p.Legal) (v : Byte) :
    (fontAddr p.fontBase v).toNat = p.fontBase + 5 * v.toNat := by
  have ⟨(hbase : p.fontBase + 80 ≤ 0x200), _⟩ := hp
  have := v.isLt
  rw [fontAddr, BitVec.toNat_ofNat]
  omega

/-! The two ways of a range-checked access (20_memory.md R59). -/

section
variable {s body : State} {c : FaultCode} {last : Nat}

theorem withRange_of_inRange (h : s.index.toNat + last ≤ 0xFFF) : withRange c last s body = .next body := by
  rcases withRange_cases c last s body with ⟨-, he⟩ | ⟨hr, -⟩
  · exact he
  · omega

/-- An instruction that is a range-checked access faults out of range, with `max(I, 0x1000)`. -/
theorem exists_takesFault_of_outOfRange {i : Instr} (hi : exec i s = withRange c last s body)
    (h : 0xFFF < s.index.toNat + last) :
    ∃ a : Word, a.toNat = max s.index.toNat 0x1000 ∧ TakesFault i s c a := by
  refine ⟨firstOutOfRange s.index, firstOutOfRange_toNat _, ?_⟩
  rcases withRange_cases c last s body with ⟨hr, -⟩ | ⟨-, he⟩
  · omega
  · exact hi.trans he

end

/-! What bcd-store writes and what reg-load reads (42_index_memory.md R163, R165). -/

section
variable {s : State} {a : Nat}

/-- After the digits of `v` are written in range from `a` up, the three bytes there are those digits. -/
theorem readByte_writeBytes_bcdDigits (hs : s.MemWf) (ha : a ≤ 0xFFD) (v : Byte) :
    ((s.writeBytes a (bcdDigits v)).readByte a).toNat = v.toNat / 100 ∧
    ((s.writeBytes a (bcdDigits v)).readByte (a + 1)).toNat = v.toNat / 10 % 10 ∧
    ((s.writeBytes a (bcdDigits v)).readByte (a + 2)).toNat = v.toNat % 10 := by
  have hlen : (bcdDigits v).length = 3 := rfl
  have digit (i : Nat) (hi : i < 3) : (s.writeBytes a (bcdDigits v)).readByte (a + i) = (bcdDigits v)[i] :=
    s.readByte_writeBytes_in a (bcdDigits v) hs (by omega) i hi
  have hv := v.isLt
  refine ⟨?_, ?_, ?_⟩
  · exact (congrArg BitVec.toNat (digit 0 (by decide))).trans (Nat.mod_eq_of_lt (by omega))
  · exact (congrArg BitVec.toNat (digit 1 (by decide))).trans (Nat.mod_eq_of_lt (by omega))
  · exact (congrArg BitVec.toNat (digit 2 (by decide))).trans (Nat.mod_eq_of_lt (by omega))

/-- Loading the bytes from `a` up into `V[0]` to `V[x]`. -/
theorem reg_loadRegs_readBytes (x r : Reg) :
    (s.loadRegs 0 (s.readBytes a (x.val + 1))).reg r = if r ≤ x then s.readByte (a + r.val) else s.reg r := by
  have hiff : (0 ≤ r.val ∧ r.val < (s.readBytes a (x.val + 1)).length) ↔ r ≤ x := by
    rw [State.readBytes_length, Fin.le_def]; omega
  simp only [State.reg_loadRegs, Nat.sub_zero, State.readBytes_getElem, dite_eq_ite, hiff]

/-- A reg-load in range completes with `V[0]` to `V[x]` loaded from `I` up. -/
theorem exec_regLoad_of_inRange {x : Reg} (h : s.index.toNat + x.val ≤ 0xFFF) :
    exec (.regLoad x) s = .next (s.loadRegs 0 (s.readBytes s.index.toNat (x.val + 1))) :=
  withRange_of_inRange h

end

/-! The font table after a `Load` (20_memory.md R51, 70_reset_and_hazards.md R261, R262). -/

section
variable {s : State} {bytes : List Byte}

/-- A `Load` that reports no error has written the font table and the program. -/
theorem loadProgram_of_noError (h : (s.loadProgram bytes).loadError = false) :
    s.loadProgram bytes = (s.loadImage bytes).report false := by
  unfold State.loadProgram at h ⊢
  split at h
  · exact absurd h (by simp)
  case isFalse hlen => exact if_neg hlen

/-- The program starts above the font table, so loading it leaves the table in place. -/
theorem readByte_loadImage_font (hp : s.cfg.Legal) (hs : s.MemWf) {k : Nat} (hk : k < s.cfg.fontData.length) :
    (s.loadImage bytes).readByte (s.cfg.fontBase + k) = s.cfg.fontData[k] := by
  obtain ⟨hfont, hlen, -⟩ := hp
  have hbase : Config.progBase = 0x200 := rfl
  rw [State.loadImage, State.readByte_writeBytes_out _ _ _ (by omega)]
  exact s.readByte_writeBytes_in _ _ hs (by omega) k hk

end

end Sys2Proof.Machine

namespace Sys2Proof.Proofs

open Sys2Proof.Machine

/-- Settles O40: the address of glyph `V[X]` lies in the font table, which the `Load` has written. -/
theorem fontCharPointsAtLoadedGlyph : Obligations.FontCharPointsAtLoadedGlyph := by
  intro s t bytes rest x hp hs ht hok hx
  rw [step_load] at ht
  cases ht
  have hload := loadProgram_of_noError hok
  obtain ⟨hregs, hparts⟩ := OnlyChanges.of_loadProgram (s.setAgenda rest) bytes
  have hreg : ((s.setAgenda rest).loadProgram bytes).reg x = s.reg x := hregs x List.not_mem_nil
  have hcfg : ((s.setAgenda rest).loadProgram bytes).cfg = s.cfg := hparts .cfg (by decide)
  refine ⟨_, rfl, fun j hj => ?_⟩
  have hk : 5 * (s.reg x).toNat + j < s.cfg.fontData.length := by
    have ⟨_, (hlen : s.cfg.fontData.length = 80), _⟩ := hp
    omega
  rw [State.setIndex_index, State.setIndex_readByte, hreg, hcfg, fontAddr_toNat hp, Nat.add_assoc, hload,
    List.getElem?_eq_getElem hk]
  exact congrArg some (readByte_loadImage_font (s := s.setAgenda rest) hp hs hk).symm

/-- Settles O44: the load reads the bytes that the dump wrote. -/
theorem loadBringsDumpedRegistersBack : Obligations.LoadBringsDumpedRegistersBack := by
  intro s t u x hs hx ht hindex hmem
  rw [exec_regDump_of_inRange hx] at ht
  cases ht
  refine ⟨_, exec_regLoad_of_inRange (by rwa [hindex]), fun j hj => ?_, fun j hj => ?_⟩
  · rw [reg_loadRegs_readBytes, if_pos hj, hmem, hindex, readByte_writeBytes_regBlock hs hx hj]
  · rw [reg_loadRegs_readBytes, if_neg (not_le.mpr hj)]

/-- Settles O38: both write `I` only. -/
theorem indexIsSetAndAddedModulo : Obligations.IndexIsSetAndAddedModulo := by
  refine ⟨fun nnn x => ⟨?_, ?_⟩, fun s nnn x => ⟨?_, ?_⟩⟩
  · exact decodeWord_encodeWord (i := .setIndex nnn) rfl
  · exact decodeWord_encodeWord (i := .addIndex x) rfl
  · exact ⟨_, rfl, zextNNN_toNat nnn, .of_setIndex s _⟩
  · refine ⟨_, rfl, ?_, .of_setIndex s _⟩
    rw [State.setIndex_index, BitVec.toNat_ofNat]
    exact Nat.mod_mod _ _

/-- Settles O39: a font table below 0x200 keeps even glyph 255 in the memory. -/
theorem fontCharIndexesByFive : Obligations.FontCharIndexesByFive := by
  intro s x hp
  have haddr := fontAddr_toNat hp (s.reg x)
  refine ⟨_, rfl, haddr, ?_, .of_setIndex s _⟩
  have ⟨(hbase : s.cfg.fontBase + 80 ≤ 0x200), _⟩ := hp
  have := (s.reg x).isLt
  rw [State.setIndex_index, haddr]
  omega

/-- Settles O41: the three digits make up the number. -/
theorem bcdStoreWritesThreeDigits : Obligations.BcdStoreWritesThreeDigits := by
  refine ⟨fun x => decodeWord_encodeWord (i := .bcdStore x) rfl, fun s x hs => ⟨fun hin => ?_, fun hout => ?_⟩⟩
  · obtain ⟨hhundreds, htens, hunits⟩ := readByte_writeBytes_bcdDigits hs hin (s.reg x)
    have := (s.reg x).isLt
    refine ⟨_, withRange_of_inRange (by omega), ?_⟩
    rw [effAddr_zero, hhundreds, htens, hunits]
    exact ⟨by omega, by omega, by omega, by omega, fun a ha => State.readByte_writeBytes_out s _ _ ha,
      .of_writeBytes s _ _⟩
  · exact exists_takesFault_of_outOfRange rfl (by omega)

/-- Settles O42: the block written is `V[0]` to `V[X]`. -/
theorem regDumpStoresTheBlock : Obligations.RegDumpStoresTheBlock := by
  refine ⟨fun x => decodeWord_encodeWord (i := .regDump x) rfl, fun s x hs => ⟨fun hin => ?_, fun hout => ?_⟩⟩
  · refine ⟨_, exec_regDump_of_inRange hin, fun r hr => readByte_writeBytes_regBlock hs hin hr, fun a ha => ?_,
      .of_writeBytes s _ _⟩
    exact State.readByte_writeBytes_out s _ _ (by rw [State.regBlock_length]; omega)
  · exact exists_takesFault_of_outOfRange rfl hout

/-- Settles O43: the bytes read go to `V[0]` to `V[X]`. -/
theorem regLoadLoadsTheBlock : Obligations.RegLoadLoadsTheBlock := by
  refine ⟨fun x => decodeWord_encodeWord (i := .regLoad x) rfl, fun s x => ⟨fun hin => ?_, fun hout => ?_⟩⟩
  · obtain ⟨-, hparts⟩ := OnlyChanges.of_loadRegs s x (s.readBytes_length s.index.toNat (x.val + 1))
    refine ⟨_, exec_regLoad_of_inRange hin, fun r hr => ?_, fun r hr => ?_, fun p => hparts p List.not_mem_nil⟩
    · rw [reg_loadRegs_readBytes, if_pos hr]
    · rw [reg_loadRegs_readBytes, if_neg (not_le.mpr hr)]
  · exact exists_takesFault_of_outOfRange rfl hout

end Sys2Proof.Proofs

/-! ### Display (O46 to O48) -/

namespace Sys2Proof.Machine

/-! The two ways of draw (43_display.md R183). -/

section
variable {s : State} {n : Nat}

theorem exec_draw_of_inRange (x y : Reg) (h : n = 0 ∨ s.index.toNat + n ≤ 0x1000) :
    exec (.draw x y n) s =
      .next ((s.setFb (s.drawing x y n).fb).setReg VF (flagByte (s.drawing x y n).collision)) := by
  rcases execDraw_cases x y n s with ⟨-, he⟩ | ⟨hpos, hout, -⟩
  · exact he
  · omega

theorem exec_draw_of_outOfRange (x y : Reg) (hpos : 0 < n) (h : 0x1000 < s.index.toNat + n) :
    exec (.draw x y n) s = takeFault .loadFault (firstOutOfRange s.index) s := by
  rcases execDraw_cases x y n s with ⟨hin, -⟩ | ⟨-, -, he⟩
  · omega
  · exact he

end

namespace OnlyChanges

variable {s t : State} {regs : List Reg} {parts : List Part}

/-- A frame without the memory keeps every sequence of bytes. -/
theorem readBytes_eq (h : OnlyChanges s t regs parts) (hmem : .mem ∉ parts) (a n : Nat) :
    t.readBytes a n = s.readBytes a n :=
  State.readBytes_congr a n fun i _ => h.2 .mem hmem (a + i)

/-- With every pixel as before, the display leaves the frame. -/
theorem of_pixel_eq (h : OnlyChanges s t regs [.fb]) (hpixel : ∀ x y, t.pixel x y = s.pixel x y) :
    OnlyChanges s t regs [] := by
  refine ⟨h.1, fun p _ => ?_⟩
  by_cases hp : p = .fb
  · subst hp; exact hpixel
  · exact h.2 p (by simpa using hp)

end OnlyChanges

/-- A covered pixel stands at 1 after it is turned over exactly when it was 0 (43_display.md R182). -/
theorem xor_covered_iff (pixel covered : Bool) :
    (pixel ^^ covered) = true ∧ covered = true ↔ pixel = false ∧ covered = true := by
  cases covered <;> simp

end Sys2Proof.Machine

namespace Sys2Proof.Proofs

open Sys2Proof.Machine

/-- Settles O47: what is drawn in range is `State.drawing`, whose pixels and collision have a closed form. -/
theorem drawXorsTheSpriteAndFlagsCollision : Obligations.DrawXorsTheSpriteAndFlagsCollision := by
  refine fun s x y n hn => ⟨fun hin => ?_, fun hpos hout => ?_⟩
  · obtain ⟨hpixel, hcollision⟩ := s.drawing_spec x y n (by omega)
    refine ⟨_, exec_draw_of_inRange x y hin, hpixel, ?_, ?_, (Completes.draw x y n).onlyChanges⟩
    · rw [State.reg_setReg_self, flagByte_toNat, Bool.toNat_eq_one]
      exact hcollision
    · rw [State.reg_setReg_self]
      exact flagByte_le_one _
  · exact ⟨_, firstOutOfRange_toNat _, exec_draw_of_outOfRange x y hpos hout⟩

/-- Settles O48: the first draw keeps the coordinates, `I` and the sprite bytes, so the second turns over the same
pixels (O47). -/
theorem drawTwiceRestoresTheDisplay : Obligations.DrawTwiceRestoresTheDisplay := by
  intro s t x y n hn hx hy hin ht
  obtain ⟨t', ht', hpixel, -, -, hframe⟩ := (drawXorsTheSpriteAndFlagsCollision s x y n hn).1 hin
  cases ht.symm.trans ht'
  have hindex : t.index = s.index := hframe.2 .index (by decide)
  obtain ⟨u, hu, hpixel', hflag, -, hframe'⟩ :=
    (drawXorsTheSpriteAndFlagsCollision t x y n hn).1 (by rwa [hindex])
  have hregX : t.reg x = s.reg x := hframe.1 x (by simpa using hx)
  have hregY : t.reg y = s.reg y := hframe.1 y (by simpa using hy)
  rw [hregX, hregY, hindex, hframe.readBytes_eq (by decide)] at hpixel' hflag
  refine ⟨u, hu, ?_, hflag.trans ?_⟩
  · refine ((hframe.trans hframe').mono (by simp) (by simp)).of_pixel_eq fun px py => ?_
    rw [hpixel', hpixel, Bool.xor_assoc, Bool.xor_self, Bool.xor_false]
  · simp only [hpixel, xor_covered_iff]

/-- Settles O46: the decoder ignores no bit of `00E0`, so a word that decodes to clear-screen is its canonical word. -/
theorem clearScreenBlanksEveryPixel : Obligations.ClearScreenBlanksEveryPixel := by
  refine ⟨fun w => ⟨fun h => ?_, fun h => h ▸ rfl⟩, fun s => ?_⟩
  · exact BitVec.and_allOnes.symm.trans (decodedFrom_of_decodeWord h).reencodes.symm
  · exact ⟨_, rfl, FrameBuffer.pixel_blank, .of_setFb s _⟩

end Sys2Proof.Proofs

/-! ### Keys and timers (O23, O49 to O52) -/

namespace Sys2Proof.Machine

namespace State

variable (s : State) (b : Byte)

theorem setSt_skipIf (c : Bool) : (s.setSt b).skipIf c = (s.skipIf c).setSt b := by
  cases c <;> rfl

theorem setSt_readBytes (a n : Nat) : (s.setSt b).readBytes a n = s.readBytes a n :=
  readBytes_congr a n fun _ _ => rfl

theorem setSt_writeBytes (a : Nat) (bs : List Byte) : (s.setSt b).writeBytes a bs = (s.writeBytes a bs).setSt b := by
  induction bs generalizing s a with
  | nil => rfl
  | cons c bs ih => exact ih (s.writeByte a c) (a + 1)

theorem setSt_loadRegs (i : Nat) (bs : List Byte) : (s.setSt b).loadRegs i bs = (s.loadRegs i bs).setSt b := by
  induction bs generalizing s i with
  | nil => rfl
  | cons c bs ih =>
    simp only [loadRegs]
    split
    · exact ih (s.setReg ⟨i, ‹_›⟩ c) (i + 1)
    · rfl

theorem setSt_drawing (x y : Reg) (n : Nat) : (s.setSt b).drawing x y n = s.drawing x y n := by
  simp only [drawing, setSt_effAddr, setSt_readBytes, setSt_reg, setSt_fb]

end State

/-! An instruction that does not write `ST` does not read it either. -/

theorem withRange_setSt (c : FaultCode) (last : Nat) (s body : State) (b : Byte) :
    withRange c last (s.setSt b) (body.setSt b) = mapNext (·.setSt b) (withRange c last s body) := by
  rw [withRange, withRange, apply_ite (mapNext _)]
  rfl

theorem skipOnKey_setSt (want : Bool) (x : Reg) (s : State) (b : Byte) :
    skipOnKey want x (s.setSt b) = mapNext (·.setSt b) (skipOnKey want x s) := by
  simp only [skipOnKey, State.setSt_reg]
  cases keyOf (s.reg x) with
  | none => rfl
  | some k => exact congrArg _ (s.setSt_skipIf b _)

/-- With another value in `ST`, such an instruction does the same to everything else (10_state.md R25). -/
theorem exec_setSt {i : Instr} (hi : .st ∉ i.writtenParts) (s : State) (b : Byte) :
    exec i (s.setSt b) = mapNext (·.setSt b) (exec i s) := by
  cases i with
  | setSound => simp [Instr.writtenParts] at hi
  | ret =>
    simp only [exec, execRet, apply_ite (mapNext _)]
    rfl
  | call nnn =>
    simp only [exec, execCall, apply_ite (mapNext _)]
    rfl
  | skipEqImm | skipNeqImm | skipEqReg | skipNeqReg => exact congrArg _ (s.setSt_skipIf b _)
  | skipIfKey x => exact skipOnKey_setSt true x s b
  | skipIfNotKey x => exact skipOnKey_setSt false x s b
  | waitForKey x =>
    simp only [exec, execWaitForKey, show (s.setSt b).lowestKey = s.lowestKey from rfl]
    cases s.lowestKey <;> rfl
  | draw x y n =>
    simp only [exec, execDraw, State.setSt_drawing, apply_ite (mapNext _)]
    rfl
  | bcdStore x =>
    simp only [exec, execBcdStore, ← withRange_setSt, ← State.setSt_writeBytes]
    rfl
  | regDump x =>
    simp only [exec, execRegDump, ← withRange_setSt, ← State.setSt_writeBytes]
    rfl
  | regLoad x =>
    simp only [exec, execRegLoad, ← withRange_setSt, ← State.setSt_loadRegs, State.setSt_readBytes]
    rfl
  | _ => rfl

/-! The two ways of each instruction on keys (44_keys_timers.md R200 to R202). -/

section
variable {s : State} {k : Key}

theorem skipOnKey_of_isKey {x : Reg} (want : Bool) (h : (s.reg x).toNat = k.val) :
    skipOnKey want x s = .next (s.skipIf (s.key k == want)) := by
  rw [skipOnKey, keyOf_eq_some.mpr h]

theorem skipOnKey_of_notKey {x : Reg} (want : Bool) (h : 15 < (s.reg x).toNat) :
    skipOnKey want x s = takeFault .keyIndexFault ((s.reg x).zeroExtend 16) s := by
  rw [skipOnKey, keyOf_eq_none.mpr h]

theorem exec_waitForKey_of_lowest (x : Reg) (hk : s.key k = true) (hlow : ∀ j < k, s.key j = false) :
    exec (.waitForKey x) s = .next (s.setReg x (keyByte k)) := by
  simp only [exec, execWaitForKey, (lowestKey_eq_some s k).mpr ⟨hk, hlow⟩]

theorem exec_waitForKey_of_none (x : Reg) (h : ∀ k, s.key k = false) :
    exec (.waitForKey x) s = .next s.rewindPc := by
  simp only [exec, execWaitForKey, (lowestKey_eq_none s).mpr h]

end

@[simp] theorem keyByte_toNat (k : Key) : (keyByte k).toNat = k.val := by
  rw [keyByte, BitVec.toNat_ofNat, Nat.mod_eq_of_lt (by omega)]

/-! ### Frames of the agenda, the diagnostic outputs and the keys -/

/-- The state with other diagnostic outputs; `State.noteDiag` is one case. -/
def State.withDiag (s : State) (c : Nibble) (u : Bool) : State := { s with diagClass := c, diagUnrecognized := u }

theorem SameButDiag.of_withDiag (s : State) (c : Nibble) (u : Bool) : SameButDiag s (s.withDiag c u) := rfl

namespace OnlyChanges

variable (s : State)

theorem of_setAgenda (es : List HostEvent) : OnlyChanges s (s.setAgenda es) [] [.agenda] :=
  ⟨fun _ _ => rfl, fun p hp => by cases p <;> simp [Part.same] at hp ⊢⟩

theorem of_withDiag (c : Nibble) (u : Bool) : OnlyChanges s (s.withDiag c u) [] [.diag] :=
  ⟨fun _ _ => rfl, fun p hp => by
    cases p <;> simp [Part.same, State.withDiag, State.key, State.pixel, State.readByte] at hp ⊢⟩

theorem of_keyWrite (k : Key) (b : Bool) : OnlyChanges s (s.keyWrite k b) [] [.keys] :=
  ⟨fun _ _ => rfl, fun p hp => by cases p <;> simp [Part.same] at hp ⊢⟩

end OnlyChanges

/-! ### Runs -/

section
variable {M : Host.Core} {s t : M.State}

theorem run_succ (n : Nat) (h : M.step s = .next t) : M.run (n + 1) s = M.run n t := by
  rw [Host.Core.run, h]

/-- A run goes on from the state its first steps reach. -/
theorem run_add {n : Nat} (m : Nat) (h : M.run n s = .next t) : M.run (n + m) s = M.run m t := by
  induction n generalizing s with
  | zero =>
    cases h
    rw [Nat.zero_add]
  | succ n ih =>
    rw [Nat.succ_add, Host.Core.run]
    rw [Host.Core.run] at h
    cases hs : M.step s with
    | next u =>
      rw [hs] at h
      exact ih h
    | fault | refused =>
      rw [hs] at h
      cases h

end

namespace State

/-- The core runs, and the word `w` at `PC` is the instruction `i`. -/
def Fetches (s : State) (w : Word) (i : Instr) : Prop :=
  s.Running ∧ s.HasWordAtPc w ∧ decodeWord w = .ok i

namespace Fetches

variable {s t : State} {w : Word} {i : Instr} {x : Reg}

theorem running (h : s.Fetches w i) : s.Running := by
  obtain ⟨hrun, -, -⟩ := h
  exact hrun

/-- A cycle whose instruction does not fault ends with the diagnostic outputs of its word (30_encoding.md R80). -/
theorem cycle_eq (h : s.Fetches w i) (ht : exec i s.advancePc = .next t) (hrun : t.Running) :
    cycle s = .next (t.noteDiag w false) := by
  obtain ⟨hs, hw, hd⟩ := h
  simp [cycle, (not_halted_iff s).mpr hs, fetch_of_hasWordAtPc hw, executeWord, hd, ht, finishCycle,
    (not_halted_iff t).mpr hrun]

/-- With no key pressed, the rewind of a wait-for-key undoes the fetch (44_keys_timers.md R202). -/
theorem cycle_waitForKey_of_none (h : s.Fetches w (.waitForKey x)) (hkeys : ∀ j, s.key j = false) :
    cycle s = .next (s.noteDiag w false) := by
  refine h.cycle_eq ?_ h.running
  rw [exec_waitForKey_of_none x (s := s.advancePc) hkeys, advance_rewind]

/-- With a key pressed, a wait-for-key takes the lowest and leaves `PC` advanced. -/
theorem cycle_waitForKey_of_lowest (h : s.Fetches w (.waitForKey x)) {k : Key} (hk : s.key k = true)
    (hlow : ∀ j < k, s.key j = false) :
    cycle s = .next ((s.advancePc.setReg x (keyByte k)).noteDiag w false) :=
  h.cycle_eq (exec_waitForKey_of_lowest x (s := s.advancePc) hk hlow) h.running

/-- Any number of `Step`s at a wait-for-key with no key pressed leaves everything but the diagnostic outputs. -/
theorem run_waitForKey_of_none (h : s.Fetches w (.waitForKey x)) (hkeys : ∀ j, s.key j = false) {n : Nat}
    {rest : List HostEvent} (hagenda : s.agenda = List.replicate n .cycle ++ rest) :
    ∃ c u, core.run n s = .next ((s.setAgenda rest).withDiag c u) := by
  induction n generalizing s with
  | zero =>
    subst hagenda
    exact ⟨s.diagClass, s.diagUnrecognized, rfl⟩
  | succ n ih =>
    rw [List.replicate_succ, List.cons_append] at hagenda
    have hstep : step s = .next ((s.setAgenda (List.replicate n .cycle ++ rest)).noteDiag w false) := by
      rw [step_of_agenda_cons s _ _ hagenda]
      exact cycle_waitForKey_of_none (s := s.setAgenda _) h hkeys
    obtain ⟨c, u, hrun⟩ := ih (s := (s.setAgenda (List.replicate n .cycle ++ rest)).noteDiag w false) h hkeys rfl
    exact ⟨c, u, (run_succ (M := core) n hstep).trans hrun⟩

/-- A `KeyWrite` of key `k`, then a `Step`: the wait-for-key takes `k`, now the only key pressed, and goes on. -/
theorem run_waitForKey_of_keyWrite (h : s.Fetches w (.waitForKey x)) (hkeys : ∀ j, s.key j = false) {k : Key}
    (hagenda : s.agenda = [.keyWrite k true, .cycle]) :
    ∃ t, core.run 2 s = .next t ∧ (t.reg x).toNat = k.val ∧ t.pc = s.pc + 2 ∧
      OnlyChanges s t [x] [.pc, .keys, .diag, .agenda] := by
  have hpress : step s = .next ((s.keyWrite k true).setAgenda [.cycle]) := step_of_agenda_cons s _ _ hagenda
  have htake := cycle_waitForKey_of_lowest (s := (s.keyWrite k true).setAgenda []) (k := k) h (by simp)
    fun j hj => by simp [hkeys, hj.ne]
  refine ⟨_, (run_succ (M := core) 1 hpress).trans (run_succ (M := core) 0 htake), by simp, rfl, ?_⟩
  exact (((((OnlyChanges.of_keyWrite s k true).trans (.of_setAgenda _ _)).trans (.of_setPc _ _)).trans
    (.of_setReg _ x _)).trans (.of_withDiag _ (classOf w) false)).mono (by simp) (by simp)

end Fetches

end State

end Sys2Proof.Machine

namespace Sys2Proof.Proofs

open Sys2Proof.Machine

/-- Settles O23: only set-sound writes `ST`, and it does so with a register's value. -/
theorem noInstructionReadsSoundTimer : Obligations.NoInstructionReadsSoundTimer := by
  intro i s t b h
  have hexec (hi : .st ∉ i.writtenParts) : exec i (s.setSt b) = .next (t.setSt b) := by
    rw [exec_setSt hi, h]; rfl
  cases i with
  | setSound x => exact h
  | _ => exact hexec (by simp [Instr.writtenParts])

/-- Settles O51: each `Step` without a key is undone by the rewind; the key written is then the lowest pressed one. -/
theorem pollingLeavesStateUntilAKey : Obligations.PollingLeavesStateUntilAKey := by
  intro s w x n k hs hw hd hkeys
  have h : s.Fetches w (.waitForKey x) := ⟨hs, hw, hd⟩
  refine ⟨fun hagenda => ?_, fun hagenda => ?_⟩
  · obtain ⟨c, u, hrun⟩ := h.run_waitForKey_of_none hkeys (rest := []) (by rw [hagenda, List.append_nil])
    exact ⟨_, hrun, .of_withDiag ..⟩
  · obtain ⟨c, u, hrun⟩ := h.run_waitForKey_of_none hkeys hagenda
    have hreached : ((s.setAgenda [.keyWrite k true, .cycle]).withDiag c u).Fetches w (.waitForKey x) := h
    obtain ⟨t, ht, hreg, hpc, hframe⟩ := hreached.run_waitForKey_of_keyWrite hkeys rfl
    refine ⟨t, (run_add (M := core) 2 hrun).trans ht, hreg, hpc, ?_⟩
    exact (((OnlyChanges.of_setAgenda s _).trans (.of_withDiag _ c u)).trans hframe).mono (by simp) (by simp)

/-- Settles O49: a value up to 15 is a key, and one above is the address of the fault. -/
theorem keySkipsTestTheLatch : Obligations.KeySkipsTestTheLatch := by
  refine fun s x => ⟨fun k hk => ⟨?_, ?_⟩, fun hx => ?_⟩
  · exact exec_skip (skipOnKey_of_isKey true hk) (by simp)
  · exact exec_skip (skipOnKey_of_isKey false hk) (by cases s.key k <;> rfl)
  · refine ⟨(s.reg x).zeroExtend 16, ?_, skipOnKey_of_notKey true hx, skipOnKey_of_notKey false hx⟩
    exact BitVec.toNat_setWidth_of_le (by decide)

/-- Settles O50: the latch has a lowest pressed key or none, one way of wait-for-key each. -/
theorem waitForKeyTakesLowestOrRewinds : Obligations.WaitForKeyTakesLowestOrRewinds := by
  refine ⟨fun x => decodeWord_encodeWord (i := .waitForKey x) rfl, fun s x => ?_⟩
  refine ⟨fun k hk hlow => ?_, fun hnone => ?_⟩
  · exact ⟨_, exec_waitForKey_of_lowest x hk hlow, by simp, .of_setReg s x _⟩
  · exact ⟨_, exec_waitForKey_of_none x hnone, rfl, .of_setPc s _⟩

/-- Settles O52: each is one copy between a register and a timer. -/
theorem timersAreReadAndWritten : Obligations.TimersAreReadAndWritten := by
  refine ⟨fun x => ⟨?_, ?_, ?_⟩, fun s x => ⟨?_, ?_, ?_⟩⟩
  · exact decodeWord_encodeWord (i := .getDelay x) rfl
  · exact decodeWord_encodeWord (i := .setDelay x) rfl
  · exact decodeWord_encodeWord (i := .setSound x) rfl
  · exact ⟨_, rfl, State.reg_setReg_self .., .of_setReg s x _⟩
  · exact ⟨_, rfl, rfl, .of_setDt s _⟩
  · exact ⟨_, rfl, rfl, decide_eq_true_iff, .of_setSt s _⟩

end Sys2Proof.Proofs

/-! ### Host events and exceptions (O6 to O13, O15, O53) -/

namespace Sys2Proof.Machine

/-! ### Frames of the events -/

namespace OnlyChanges

theorem refl (s : State) : OnlyChanges s s [] [] :=
  of_regs s fun _ _ => rfl

theorem of_tick (s : State) : OnlyChanges s s.tick [] [.dt, .st] :=
  (of_setDt s (countDown s.dt)).trans (of_setSt _ (countDown s.st))

end OnlyChanges

/-- The parts an event writes, but for what a `Reset` puts back and what an instruction cycle executes. -/
def HostEvent.writtenParts : HostEvent → List Part
  | .load _ => [.mem, .report]
  | .tick => [.dt, .st]
  | .keyWrite _ _ => [.keys]
  | .reset | .cycle => []

/-- The `Step` of a halted core changes nothing (60_exceptions.md R223). -/
theorem cycle_of_goneWrong {s : State} (h : s.GoneWrong) : cycle s = .next s := by
  rw [cycle, (halted_iff s).mpr h]
  rfl

/-- An event that neither resets nor executes writes the parts of its table only. -/
theorem hostEvent_onlyChanges {e : HostEvent} {s t : State} (hreset : e ≠ .reset)
    (hidle : e = .cycle → s.GoneWrong) (h : hostEvent e s = .next t) : OnlyChanges s t [] e.writtenParts := by
  cases e with
  | reset => exact absurd rfl hreset
  | cycle =>
    cases (cycle_of_goneWrong (hidle rfl)).symm.trans h
    exact .refl s
  | load bytes =>
    cases h
    exact .of_loadProgram s bytes
  | tick =>
    cases h
    exact .of_tick s
  | keyWrite k b =>
    cases h
    exact .of_keyWrite s k b

/-- A step that neither resets nor executes writes, besides the agenda, the parts of its event. -/
theorem step_onlyChanges {s t : State} (hreset : s.agenda.headD .cycle ≠ .reset)
    (hidle : s.agenda.headD .cycle = .cycle → s.GoneWrong) (h : step s = .next t) :
    OnlyChanges s t [] (.agenda :: (s.agenda.headD .cycle).writtenParts) := by
  rw [step_eq_hostEvent] at h
  exact (OnlyChanges.of_setAgenda s s.agenda.tail).trans (hostEvent_onlyChanges hreset hidle h)

/-! ### Every event answers a next state and leaves the rest of the agenda -/

theorem hostEvent_spec (e : HostEvent) (s : State) : ∃ t, hostEvent e s = .next t ∧ t.agenda = s.agenda := by
  cases e with
  | cycle =>
    obtain ⟨t, ht, -, hagenda, -, -⟩ := cycle_spec s
    exact ⟨t, ht, hagenda⟩
  | load bytes => exact ⟨_, rfl, (OnlyChanges.of_loadProgram s bytes).2 .agenda (by decide)⟩
  | reset | tick | keyWrite => exact ⟨_, rfl, rfl⟩

theorem exists_step_eq_next (s : State) : ∃ t, step s = .next t := by
  obtain ⟨t, ht, -⟩ := hostEvent_spec (s.agenda.headD .cycle) (s.setAgenda s.agenda.tail)
  exact ⟨t, (step_eq_hostEvent s).trans ht⟩

/-- A step uses up one event of the agenda (log 4). -/
theorem step_agenda_eq_tail {s t : State} (h : step s = .next t) : t.agenda = s.agenda.tail := by
  rw [step_eq_hostEvent] at h
  obtain ⟨u, hu, hagenda⟩ := hostEvent_spec (s.agenda.headD .cycle) (s.setAgenda s.agenda.tail)
  cases hu.symm.trans h
  exact hagenda

/-- Without a `Load` that is too long, no load error comes to stand reported (70_reset_and_hazards.md R262). -/
theorem hostEvent_loadError_eq_false {e : HostEvent} {s t : State}
    (hfits : ∀ bytes, e = .load bytes → bytes.length ≤ Config.maxProgLen) (hs : s.loadError = false)
    (h : hostEvent e s = .next t) : t.loadError = false := by
  cases e with
  | cycle =>
    obtain ⟨u, hu, -, -, -, herror⟩ := cycle_spec s
    cases hu.symm.trans h
    exact herror.trans hs
  | load bytes =>
    cases h
    rw [State.loadProgram, if_neg (Nat.not_lt.mpr (hfits bytes rfl))]
    rfl
  | reset =>
    cases h
    rfl
  | tick | keyWrite =>
    cases h
    exact hs

/-! ### The host's duties along the agenda (60_exceptions.md R234, 70_reset_and_hazards.md R263) -/

/-- Where the host stands after an event. -/
def HostPhase.after : HostPhase → HostEvent → HostPhase
  | _, .reset => .awaitLoad
  | _, .load _ => .running
  | ph, .cycle | ph, .tick | ph, .keyWrite _ _ => ph

section
variable {ph : HostPhase} {es : List HostEvent}

/-- The duties are kept from event to event; an empty agenda, whose events are `Step`s, goes on keeping them. -/
theorem keepsProtocol_tail (h : keepsProtocol ph es = true) :
    keepsProtocol (ph.after (es.headD .cycle)) es.tail = true := by
  cases es with
  | nil => exact h
  | cons e es =>
    cases e with
    | reset | tick | keyWrite => cases ph <;> exact h
    | cycle =>
      cases ph with
      | awaitLoad => cases h
      | running => exact h
    | load bytes =>
      cases ph with
      | awaitLoad => exact (Bool.and_eq_true_iff.mp h).2
      | running => cases h

/-- A `Load` of a host that keeps its duties is not too long. -/
theorem length_le_of_keepsProtocol {bytes : List Byte} (h : keepsProtocol ph es = true)
    (hload : es.headD .cycle = .load bytes) : bytes.length ≤ Config.maxProgLen := by
  cases es with
  | nil => cases hload
  | cons e es =>
    cases hload
    cases ph with
    | awaitLoad => exact of_decide_eq_true (Bool.and_eq_true_iff.mp h).1
    | running => cases h

/-- While the `Load` is awaited, the next event is no `Step`. -/
theorem headD_ne_cycle_of_awaitLoad (h : keepsProtocol .awaitLoad es = true) : es.headD .cycle ≠ .cycle := by
  intro hcycle
  cases es with
  | nil => cases h
  | cons e es =>
    cases hcycle
    cases h

end

theorem State.HostKeepsDuties.step {s t : State} (hs : s.HostKeepsDuties) (h : step s = .next t) :
    t.HostKeepsDuties := by
  obtain ⟨⟨ph, hkeeps⟩, herror⟩ := hs
  refine ⟨⟨ph.after (s.agenda.headD .cycle), ?_⟩, ?_⟩
  · rw [step_agenda_eq_tail h]
    exact keepsProtocol_tail hkeeps
  · rw [step_eq_hostEvent] at h
    exact hostEvent_loadError_eq_false (fun _ => length_le_of_keepsProtocol hkeeps)
      (s := s.setAgenda s.agenda.tail) herror h

/-! ### Runs of any length -/

section
variable {M : Host.Core}

/-- What every step keeps, every run keeps. -/
theorem run_invariant {P : M.State → Prop} (hstep : ∀ s t, P s → M.step s = .next t → P t) {n : Nat}
    {s t : M.State} (hs : P s) (h : M.run n s = .next t) : P t := by
  induction n generalizing s with
  | zero =>
    cases h
    exact hs
  | succ n ih =>
    rw [Host.Core.run] at h
    split at h
    · exact ih (hstep _ _ hs ‹_›) h
    · cases h
    · cases h

/-- If every step answers a next state, every run does. -/
theorem exists_run_eq_next (hstep : ∀ s, ∃ t, M.step s = .next t) (n : Nat) (s : M.State) :
    ∃ t, M.run n s = .next t := by
  induction n generalizing s with
  | zero => exact ⟨s, rfl⟩
  | succ n ih =>
    obtain ⟨u, hu⟩ := hstep s
    rw [run_succ n hu]
    exact ih u

end

/-! ### The halted core (60_exceptions.md R223) -/

/-- `t` is what a core halted in `s` can come to when no `Reset` and no `Load` is to come: halted still, no such
event listed, and changed by timers and keys only. -/
structure HaltedSince (s t : State) : Prop where
  goneWrong : t.GoneWrong
  noResetNoLoad : ∀ e ∈ t.agenda, e ≠ .reset ∧ ∀ bytes, e ≠ .load bytes
  onlyChanges : OnlyChanges s t [] [.dt, .st, .keys, .agenda]

theorem HaltedSince.step {s t u : State} (h : HaltedSince s t) (hu : step t = .next u) : HaltedSince s u := by
  obtain ⟨hwrong, hevents, hframe⟩ := h
  have hhead : t.agenda.headD .cycle ≠ .reset ∧ ∀ bytes, t.agenda.headD .cycle ≠ .load bytes := by
    cases hagenda : t.agenda with
    | nil => exact ⟨nofun, nofun⟩
    | cons e rest => exact hevents e (by rw [hagenda]; exact .head _)
  obtain ⟨hreset, hload⟩ := hhead
  have hstep : OnlyChanges t u [] [.dt, .st, .keys, .agenda] := by
    refine (step_onlyChanges hreset (fun _ => hwrong) hu).mono (List.nil_subset _) ?_
    cases he : t.agenda.headD .cycle with
    | load bytes => exact absurd he (hload bytes)
    | reset | cycle | tick | keyWrite => simp [HostEvent.writtenParts]
  refine ⟨?_, ?_, (hframe.trans hstep).mono (by simp) (by simp)⟩
  · have hfault : u.fault = t.fault := hstep.2 .fault (by decide)
    rwa [State.GoneWrong, State.Running, hfault]
  · rw [step_agenda_eq_tail hu]
    exact fun e he => hevents e (List.mem_of_mem_tail he)

/-! ### Taking a fault (60_exceptions.md R222) -/

/-- An instruction that completes records no fault. -/
theorem Completes.fault_eq {i : Instr} {s t : State} (h : Completes s i t) : t.fault = s.fault := by
  refine h.onlyChanges.2 .fault ?_
  cases i <;> simp [Instr.writtenParts]

/-- A fault of a fetched instruction undoes the fetch. -/
theorem Faults.eq_recordFault {i : Instr} {s t : State} (h : Faults s.advancePc i t) :
    t = { s with fault := t.fault } := by
  obtain ⟨c, a, -, -, -⟩ := h
  rw [advance_rewind]
  rfl

/-- A cycle of a running core that ends halted has written `FAULT` only. -/
theorem cycle_precise {s t : State} (hs : s.Running) (h : cycle s = .next t) (ht : t.GoneWrong) :
    t = { s with fault := t.fault } := by
  rcases cycle_cases s with ⟨hwrong, -⟩ | ⟨-, -, he⟩ | ⟨-, -, -, he⟩ | ⟨-, -, i, u, -, hu, he⟩
  · exact absurd hs hwrong
  · cases he.symm.trans h
    rfl
  · cases he.symm.trans h
    exact absurd hs ht
  · rcases exec_cases hu with hc | hf
    · have hrun : u.Running := by rw [State.Running, hc.fault_eq]; exact hs
      rw [(not_halted_iff u).mpr hrun] at he
      cases he.symm.trans h
      exact absurd hrun ht
    · rw [(halted_iff u).mpr hf.goneWrong] at he
      cases he.symm.trans h
      exact hf.eq_recordFault

/-! ### The timers and the tone (60_exceptions.md R229, R230) -/

/-- Any number of ticks, counting both timers down. -/
theorem run_ticks {s : State} {n : Nat} (hagenda : s.agenda = List.replicate n .tick) :
    ∃ t, core.run n s = .next t ∧ t.dt.toNat = s.dt.toNat - n ∧ t.st.toNat = s.st.toNat - n ∧
      OnlyChanges s t [] [.dt, .st, .agenda] := by
  induction n generalizing s with
  | zero => exact ⟨s, rfl, rfl, rfl, (OnlyChanges.refl s).mono (List.nil_subset _) (List.nil_subset _)⟩
  | succ n ih =>
    have hstep : step s = .next (s.setAgenda (List.replicate n .tick)).tick := step_of_agenda_cons s _ _ hagenda
    obtain ⟨t, hrun, hdt, hst, hframe⟩ := ih (s := (s.setAgenda (List.replicate n .tick)).tick) rfl
    refine ⟨t, (run_succ (M := core) n hstep).trans hrun, ?_, ?_, ?_⟩
    · rw [hdt, State.tick_dt, countDown_toNat, State.setAgenda_dt]
      omega
    · rw [hst, State.tick_st, countDown_toNat, State.setAgenda_st]
      omega
    · exact (((OnlyChanges.of_setAgenda s _).trans (.of_tick _)).trans hframe).mono (by simp) (by simp)

theorem toneActive_iff (s : State) : s.toneActive = true ↔ 0 < s.st.toNat := decide_eq_true_iff

theorem toneActive_eq_false_iff (s : State) : s.toneActive = false ↔ s.st.toNat = 0 := by
  rw [State.toneActive, decide_eq_false_iff_not, gt_iff_lt, Nat.pos_iff_ne_zero, not_not]

end Sys2Proof.Machine

namespace Sys2Proof.Proofs

open Sys2Proof.Machine

/-- Settles O53. While the `Load` is awaited the next event is no `Step`, and a `Reset` is excluded, so the step
writes the parts of a `Load`, a `Tick` or a `KeyWrite`. -/
theorem stepKeepsHostDuties : Obligations.StepKeepsHostDuties := by
  refine ⟨fun s t hs h => hs.step h, fun s t hkeeps hhead h => ?_⟩
  have hcycle := headD_ne_cycle_of_awaitLoad hkeeps
  have hreset : s.agenda.headD .cycle ≠ .reset := by
    cases hagenda : s.agenda with
    | nil => exact nofun
    | cons e rest => simpa [hagenda] using hhead
  refine (step_onlyChanges hreset (fun he => absurd he hcycle) h).mono (List.nil_subset _) ?_
  cases s.agenda.headD .cycle <;> simp [HostEvent.writtenParts]

/-- Settles O11: the duties with no load error reported are an invariant, and every step answers a next state. -/
theorem hostKeepingProtocolSeesNoLoadError : Obligations.HostKeepingProtocolSeesNoLoadError := by
  intro ph s hkeeps herror k
  obtain ⟨t, ht⟩ := exists_run_eq_next (M := core) exists_step_eq_next k s
  have hduties : t.HostKeepsDuties :=
    run_invariant (M := core) (P := State.HostKeepsDuties) (fun _ _ hs => hs.step) ⟨⟨ph, hkeeps⟩, herror⟩ ht
  obtain ⟨-, hreport⟩ := hduties
  exact ⟨t, ht, hreport⟩

/-- Settles O9: `HaltedSince` is an invariant of the steps. -/
theorem faultIsRecordedOnceUntilReset : Obligations.FaultIsRecordedOnceUntilReset := by
  intro s t k hs hevents h
  have hstart : HaltedSince s s := ⟨hs, hevents, (OnlyChanges.refl s).mono (List.nil_subset _) (List.nil_subset _)⟩
  exact (run_invariant (M := core) (P := HaltedSince s) (fun _ _ ht => ht.step) hstart h).onlyChanges

/-- Settles O8: with no event listed the step is a cycle. -/
theorem faultsArePrecise : Obligations.FaultsArePrecise := by
  intro s t ⟨hagenda, hrun⟩ h ht
  rw [step_of_agenda_nil s hagenda] at h
  exact cycle_precise hrun h ht

/-- Settles O13: the latch is read after its write, and no way of a cycle writes it. -/
theorem keyWriteSetsOneKey : Obligations.KeyWriteSetsOneKey := by
  refine ⟨fun s k b rest => ⟨_, step_keyWrite s rest k b, ?_, fun j hj => ?_, .of_keyWrite (s.setAgenda rest) k b⟩,
    fun s rest => ?_⟩
  · rw [State.setAgenda_key, State.key_keyWrite, if_pos rfl]
  · rw [State.setAgenda_key, State.key_keyWrite, if_neg hj]
  · obtain ⟨t, ht, -, -, hkeys, -⟩ := cycle_spec (s.setAgenda rest)
    exact ⟨t, ht, fun k => by rw [State.key, hkeys]; rfl⟩

/-- Settles O7: the cycle does nothing, and neither `Tick` nor `KeyWrite` looks at `FAULT`. -/
theorem haltedCoreStillCountsAndListens : Obligations.HaltedCoreStillCountsAndListens := by
  intro s rest k b hs
  refine ⟨fun hagenda => ?_, ?_, ?_, keyWriteSetsOneKey.1 s k b rest⟩
  · rw [step_of_agenda_nil s hagenda, cycle_of_goneWrong hs]
  · exact cycle_of_goneWrong (s := s.setAgenda rest) hs
  · exact ⟨_, step_tick s rest, countDown_toNat s.dt, countDown_toNat s.st, .of_tick (s.setAgenda rest)⟩

/-- Settles O12: each `Tick` of the agenda is one step, and `Tick` does not look at `FAULT`. -/
theorem ticksCountDownSaturating : Obligations.TicksCountDownSaturating :=
  fun _ _ => run_ticks

/-- Settles O6: of the four ways of a cycle only the fetch fault has `PC` above 0xFFE in a running core. -/
theorem fetchOutsideMemoryFaults : Obligations.FetchOutsideMemoryFaults := by
  intro s ⟨hagenda, hrun⟩ hpc
  refine ⟨firstOutOfRange s.pc, firstOutOfRange_toNat s.pc, ?_⟩
  rw [step_of_agenda_nil s hagenda]
  rcases cycle_cases s with ⟨hwrong, -⟩ | ⟨-, -, he⟩ | ⟨-, hle, -⟩ | ⟨-, hle, -⟩
  · exact absurd hrun hwrong
  · exact he
  · omega
  · omega

/-- Settles O10: a step is one host event, and each answers a next state. -/
theorem stepAlwaysAnswersNext : Obligations.StepAlwaysAnswersNext :=
  exists_step_eq_next

/-- Settles O15: a tick takes `ST` to 0 from 1, and from 0, where the tone was off already. -/
theorem toneFollowsSoundTimer : Obligations.ToneFollowsSoundTimer := by
  refine ⟨toneActive_iff, fun s x => ⟨_, rfl, toneActive_iff _⟩, fun s rest => ⟨_, step_tick s rest, ?_⟩⟩
  rw [toneActive_iff, toneActive_eq_false_iff, State.setAgenda_st, State.tick_st, countDown_toNat]
  omega

end Sys2Proof.Proofs

/-! ### Reset, load and the finished run (O14, O31, O1) -/

namespace Sys2Proof.Machine

/-! ### The values a `Reset` leaves (10_state.md R34, 70_reset_and_hazards.md R260) -/

namespace State

variable (s : State)

@[simp] theorem afterReset_reg (r : Reg) : s.afterReset.reg r = 0 := by
  simp [afterReset, reg]

@[simp] theorem afterReset_key (k : Key) : s.afterReset.key k = false := by
  simp [afterReset, key]

@[simp] theorem afterReset_pixel (x : Fin 64) (y : Fin 32) : s.afterReset.pixel x y = false := by
  simp [afterReset, pixel, FrameBuffer.pixel]

/-- No byte is listed after a `Reset`, so each reads as `MEM_FILL`. -/
@[simp] theorem afterReset_readByte (a : Nat) : s.afterReset.readByte a = s.cfg.memFill := rfl

end State

/-! ### Events other than a `Reset` -/

/-- An empty agenda stands for a `Step`, so only a listed `Reset` can come next. -/
theorem headD_ne_reset {es : List HostEvent} (h : es.head? ≠ some .reset) : es.headD .cycle ≠ .reset := by
  cases es with
  | nil => exact nofun
  | cons e rest => exact fun he => h (congrArg some he)

theorem HostEvent.fault_notMem_writtenParts (e : HostEvent) : .fault ∉ e.writtenParts := by
  cases e <;> simp [HostEvent.writtenParts]

/-! ### The bytes and the report of a `Load` (70_reset_and_hazards.md R261, R262) -/

section
variable {s : State} {bytes : List Byte}

theorem loadProgram_of_fits (h : bytes.length ≤ 3584) :
    s.loadProgram bytes = (s.loadImage bytes).report false :=
  if_neg (Nat.not_lt.mpr h)

theorem loadProgram_of_tooLong (h : 3584 < bytes.length) : s.loadProgram bytes = s.report true :=
  if_pos h

/-- The program is written last and ends with the memory at the latest, so its bytes stand where it puts them. -/
theorem readByte_loadImage_program (hp : s.cfg.Legal) (hs : s.MemWf) (hlen : bytes.length ≤ 3584) {j : Nat}
    (hj : j < bytes.length) : (s.loadImage bytes).readByte (0x200 + j) = bytes[j] := by
  obtain ⟨hfont, hdata, -⟩ := hp
  have hbase : Config.progBase = 0x200 := rfl
  have hwf : (s.writeBytes s.cfg.fontBase s.cfg.fontData).MemWf := s.memWf_writeBytes _ _ hs (by omega)
  exact State.readByte_writeBytes_in _ 0x200 bytes hwf (by omega) j hj

theorem readByte_loadImage_outside (hp : s.cfg.Legal) {a : Nat}
    (hfont : a < s.cfg.fontBase ∨ s.cfg.fontBase + 80 ≤ a) (hprog : a < 0x200 ∨ 0x200 + bytes.length ≤ a) :
    (s.loadImage bytes).readByte a = s.readByte a := by
  obtain ⟨-, hdata, -⟩ := hp
  rw [State.loadImage, State.readByte_writeBytes_out _ _ _ hprog]
  exact s.readByte_writeBytes_out _ _ (by rwa [hdata])

end

/-! ### A jump to itself (70_reset_and_hazards.md R272) -/

theorem State.Finished.fetches {s : State} (h : s.Finished) :
    ∃ w nnn, s.Fetches w (.jump nnn) ∧ zextNNN nnn = s.pc := by
  obtain ⟨hrun, nnn, hfetch, htarget⟩ := h
  have hw : s.HasWordAtPc (wordOPA 0x1 nnn) := by
    rw [hasWordAtPc_iff]
    rcases fetch_cases s with ⟨hpc, he⟩ | ⟨-, he⟩ <;> rw [hfetch] at he
    · exact ⟨hpc, (Except.ok.inj he).symm⟩
    · cases he
  exact ⟨_, nnn, ⟨hrun, hw, decodeWord_encodeWord (i := .jump nnn) rfl⟩, htarget⟩

/-- The jump takes `PC` back to where the fetch found it. -/
theorem State.Finished.cycle_eq {s : State} (h : s.Finished) : ∃ w, cycle s = .next (s.noteDiag w false) := by
  obtain ⟨w, nnn, hfetches, htarget⟩ := h.fetches
  refine ⟨w, hfetches.cycle_eq ?_ hfetches.running⟩
  calc exec (.jump nnn) s.advancePc
    _ = .next (s.setPc s.pc) := by rw [← htarget]; rfl
    _ = .next s := rfl

/-- Neither the fetch nor `FAULT` depends on the diagnostic outputs. -/
theorem SameButDiag.finished {s t : State} (h : SameButDiag s t) (hs : s.Finished) : t.Finished := by
  rw [h]
  exact hs

/-- A `Step` of a finished core writes the diagnostic outputs only. -/
theorem SameButDiag.step_of_finished {s t u : State} (h : SameButDiag s t) (hs : s.Finished) (hagenda : s.agenda = [])
    (hu : step t = .next u) : SameButDiag s u := by
  have hempty : t.agenda = [] := by rw [h]; exact hagenda
  obtain ⟨w, hcycle⟩ := (h.finished hs).cycle_eq
  rw [step_of_agenda_nil t hempty, hcycle] at hu
  cases hu
  rw [h]
  rfl

end Sys2Proof.Machine

namespace Sys2Proof.Proofs

open Sys2Proof.Machine

/-- Settles O14: the font table ends below the program, so neither write overwrites the other's bytes. -/
theorem loadWritesFontAndProgram : Obligations.LoadWritesFontAndProgram := by
  intro s bytes rest hp hs
  rw [step_load]
  refine ⟨fun hlen => ⟨_, rfl, ?_⟩, fun hlen => by rw [loadProgram_of_tooLong hlen]; rfl⟩
  have hframe := OnlyChanges.of_loadProgram (s.setAgenda rest) bytes
  rw [loadProgram_of_fits hlen] at hframe ⊢
  refine ⟨rfl, fun j hj => ?_, fun j hj => ?_, fun a hfont hprog => ?_, hframe⟩
  · have hj' : j < s.cfg.fontData.length := by
      have ⟨_, (hdata : s.cfg.fontData.length = 80), _⟩ := hp
      omega
    rw [List.getElem?_eq_getElem hj', State.report_readByte]
    exact congrArg some (readByte_loadImage_font (s := s.setAgenda rest) hp hs hj').symm
  · rw [List.getElem?_eq_getElem hj, State.report_readByte]
    exact congrArg some (readByte_loadImage_program (s := s.setAgenda rest) hp hs hlen hj).symm
  · exact readByte_loadImage_outside (s := s.setAgenda rest) hp hfont hprog

/-- Settles O31: being the finished state but for the diagnostic outputs is an invariant of the `Step`s. -/
theorem finishedStateStaysPut : Obligations.FinishedStateStaysPut := by
  intro s k hs hagenda
  have hstart : SameButDiag s s := rfl
  obtain ⟨t, ht⟩ := exists_run_eq_next (M := core) exists_step_eq_next k s
  refine ⟨t, ht, ?_⟩
  exact run_invariant (M := core) (P := SameButDiag s) (fun _ _ h => h.step_of_finished hs hagenda) hstart ht

/-- Settles O1: no event but a `Reset` or the cycle of a running core has `FAULT` among its written parts. -/
theorem resetGivesSpecValuesAndAloneClearsFault : Obligations.ResetGivesSpecValuesAndAloneClearsFault := by
  refine ⟨fun s rest => ⟨_, step_reset s rest, ?_⟩, fun s t hs hhead h => ?_⟩
  · exact ⟨s.afterReset_reg, rfl, rfl, rfl, rfl, rfl, s.afterReset_key, s.afterReset_pixel, s.afterReset_readByte,
      rfl, rfl, rfl, rfl⟩
  · obtain ⟨-, hparts⟩ := step_onlyChanges (headD_ne_reset hhead) (fun _ => hs) h
    exact hparts .fault (by simp [HostEvent.fault_notMem_writtenParts])

end Sys2Proof.Proofs

/-! ### The placed word (O16) -/

namespace Sys2Proof.Machine

/-- A slot the fetch can read: `PC` itself where both its bytes lie in memory, else 0x200. -/
theorem fetchSlot_toNat_le (s : State) : (fetchSlot s).toNat ≤ 0xFFE := by
  unfold fetchSlot
  split
  · decide
  · next hin =>
    rw [outOfRange_iff] at hin
    omega

/-- The bytes of a word, written at `a`, are read back as that word (20_memory.md R56). -/
theorem wordOfBytes_readByte_writeBytes {s : State} {a : Nat} (hs : s.MemWf) (ha : a ≤ 0xFFE) (w : Word) :
    wordOfBytes ((s.writeBytes a (bytesOfWord w)).readByte a) ((s.writeBytes a (bytesOfWord w)).readByte (a + 1)) =
      w := by
  have hlen : (bytesOfWord w).length = 2 := rfl
  have hbyte := s.readByte_writeBytes_in a (bytesOfWord w) hs (by omega)
  have hhi : (s.writeBytes a (bytesOfWord w)).readByte a = w.extractLsb' 8 8 := hbyte 0 (by omega)
  have hlo : (s.writeBytes a (bytesOfWord w)).readByte (a + 1) = w.extractLsb' 0 8 := hbyte 1 (by omega)
  rw [hhi, hlo, wordOfBytes_bytes]

theorem placeWord_readyToStep (s : State) (w : Word) : (placeWord s w).ReadyToStep := ⟨rfl, rfl⟩

theorem placeWord_hasWordAtPc {s : State} (hs : s.MemWf) (w : Word) : (placeWord s w).HasWordAtPc w :=
  (hasWordAtPc_iff _ w).mpr ⟨fetchSlot_toNat_le s, wordOfBytes_readByte_writeBytes hs (fetchSlot_toNat_le s) w⟩

/-- In the opcode table's numbering a word of 16 bits is its own number (30_encoding.md R85). -/
theorem State.withFetchWord_toNat (s : State) (w : Word) : s.withFetchWord 16 w.toNat = placeWord s w := by
  rw [withFetchWord, Nat.mod_eq_of_lt w.isLt, BitVec.ofNat_toNat, BitVec.setWidth_eq]

end Sys2Proof.Machine

namespace Sys2Proof.Proofs

open Sys2Proof.Machine

/-- Settles O16: the word is placed at a slot the fetch can read, and its two bytes are read back there. -/
theorem placedWordIsFetchedNext : Obligations.PlacedWordIsFetchedNext := by
  intro s w hs
  rw [State.withFetchWord_toNat]
  exact ⟨placeWord_readyToStep s w, placeWord_hasWordAtPc hs w⟩

end Sys2Proof.Proofs
